-- ==== Sys2Proof/Word.lean ====
section
/-! DEFINITION. The two data widths of CORE (00_scope.md R8): `u8` and `u32`. -/

namespace Sys2Proof

/-- `u8`: one element of a byte buffer, of `S`, and the registers `I`, `J` (R8, R36, R37). -/
abbrev Byte := BitVec 8

/-- `u32`: one word of the ARX matrices and the 32-bit registers (R8, R21 to R25, R39, R40). -/
abbrev Word := BitVec 32

end Sys2Proof
end

