-- ==== Sys2Proof/Config.lean ====
section
/-! DEFINITION. What an implementation of CORE fixes (00_scope.md R7, 10_state.md R55) and the values the spec leaves
open. An OPEN parameter is an `opaque` constant without a body: no proof can see its value. -/

namespace Sys2Proof

/-- The PAC mode flag (encrypt or decrypt), field `MODE` of the command word (30_encoding.md R91). -/
inductive PacMode where
  | encrypt
  | decrypt
deriving DecidableEq, Repr

/-- The three engines of CORE (00_scope.md R1). -/
inductive Engine where
  | spc
  | arx
  | pac
deriving DecidableEq, Repr

/-- The contents of register `ERR`: no error, or one of the four error kinds (60_exceptions.md R250). -/
inductive ErrKind where
  | noError
  | invalidParameter
  | emptyInput
  | invalidKey
  | illegalCommand
deriving DecidableEq, Repr

/-- The contents of register `STATUS` (10_state.md R29). -/
inductive Status where
  | idle
  | busy
  | done
  | error
deriving DecidableEq, Repr

/-- The two 32-bit registers that a step increases by one with no bound of the spec's on the result: `TLEN` (R14) and
the PAC key cursor `CUR` (R223). -/
inductive Counter where
  | tlen
  | cur
deriving DecidableEq, Repr

/-- How far `PT_MAX` lies above its least value 1 (R7: 1 ≤ PT_MAX ≤ 2^32 − 1, OPEN). -/
opaque Config.ptSlack : Fin 4294967295

/-- How far `KEY_MAX` lies above its least value 32 (R7: 32 ≤ KEY_MAX ≤ 2^32 − 1, OPEN). -/
opaque Config.keySlack : Fin 4294967264

/-- `PT_MAX`, the largest plaintext length in bytes: OPEN (R7; 92_eei_decisions.md D4). -/
def Config.PT_MAX : Nat := Config.ptSlack.val + 1

/-- `KEY_MAX`, the largest key length in bytes: OPEN (R7; 92_eei_decisions.md D4). -/
def Config.KEY_MAX : Nat := Config.keySlack.val + 32

/-- `N_MAX`, the number of elements of `S` and the largest stateSize (R7; 92_eei_decisions.md D5). -/
abbrev Config.N_MAX : Nat := 256

/-- `ErrMsg`, the message text of an error kind: OPEN, used by no rule (R7, R256; D12). -/
opaque Config.errMsg : ErrKind → String

/-- `RegMap`, the platform address of a register or buffer named in 10_state.md: OPEN, used by no rule (R7, R71; D19). -/
opaque Config.regMap : String → Option Nat

/-- What a run may depend on (40_frontend.md R133): the command word and the operands it uses (30_encoding.md R93). The
stateSize is one of them for RUN_SPC only, the nonce for RUN_ARX only; an element without a value is `none`. -/
structure RunRequest where
  cmd : Word
  stateSize : Option Word
  text : List (Option Byte)
  key : List (Option Byte)
  nonce : List (Option Byte)
deriving DecidableEq, Repr

/-- FREE VALUE (assumption 6). What a 32-bit counter holds after it is increased from 2^32 − 1, at the n-th time that
this happens in a run of the request: the spec says that it does not occur (R45, R265) and states no result. It depends
on the request alone, as every result of a run does (R133). -/
opaque Config.counterOverflow : Counter → RunRequest → Nat → Word

/-- The name each engine exposes (10_state.md R55; D33): the source's component names. -/
def Engine.name : Engine → String
  | .spc => "StatePermutationCipher"
  | .arx => "ARXStreamCipher"
  | .pac => "PolyalphabeticCipher"

end Sys2Proof
end

