-- ==== Sys2Proof/Machine/Trace.lean ====
section
/-! DEFINITION. The nine kinds of trace record (30_encoding.md R103 to R112). A record is held as a structured value
(92_eei_decisions.md D15) and its kind tag is `TraceRecord.tag` (Machine/Ops.lean); its physical layout is the OPEN
parameter `TraceLayout`. -/

namespace Sys2Proof.Machine

/-- The class of a character in a `PAC_CHAR` record, with the fields that are present only for a letter (R112). -/
inductive PacClass where
  | letter (lower : Bool) (p cur ki : Nat) (kl : Byte) (kpos q : Nat) (out : Byte)
  | kept
  | dropped
deriving DecidableEq, Repr

/-- A trace record: its kind and the fields of that kind, in the order of R104 to R112. -/
inductive TraceRecord where
  /-- `KSA_STEP` (R104). -/
  | ksaStep (i : Nat) (kb : Byte) (sPre : List Byte) (j : Nat) (sPost : List Byte)
  /-- `PRGA_STEP` (R105). -/
  | prgaStep (k i j : Nat) (si sj : Byte) (t : Nat) (ks pt ct : Byte) (sPost : List Byte)
  /-- `SPC_VERIFY` (R106). -/
  | spcVerify (recovered : List Byte) (ok : Bool)
  /-- `ARX_INIT` (R107). -/
  | arxInit (mi : Vector Word 16)
  /-- `ARX_QR` (R108). -/
  | arxQr (qn ia ib ic id : Nat) (a0 b0 c0 d0 : Word) (steps : Vector Word 12) (a4 b4 c4 d4 : Word)
      (mw : Vector Word 16)
  /-- `ARX_FINAL` (R109). -/
  | arxFinal (work sum : Vector Word 16) (block : List Byte)
  /-- `ARX_XOR` (R110). -/
  | arxXor (k bi : Nat) (pt ks ct : Byte)
  /-- `PAC_CLEAN` (R111). -/
  | pacClean (ckey : List Byte)
  /-- `PAC_CHAR` (R112). -/
  | pacChar (k : Nat) (ch : Byte) (cls : PacClass)
deriving DecidableEq, Repr

end Sys2Proof.Machine

namespace Sys2Proof

/-- `TraceLayout`, the physical layout of a trace record: OPEN, used by no rule (00_scope.md R7; D15). -/
opaque Config.traceLayout : Machine.TraceRecord → List Byte

end Sys2Proof
end

