-- ==== Sys2Proof/Machine/Moves.lean ====
section
/-! DEFINITION. What acts on CORE from outside: the three moves of the host (40_frontend.md R121 to R123), the reset
event (70_reset_and_hazards.md R280), and the names of the byte buffers they and the sequencer address. -/

namespace Sys2Proof.Machine

/-- The eight buffer spaces of `u8` elements that are not a register file (20_memory.md R60). -/
inductive ByteBuf where
  | PT
  | KEY
  | NONCE
  | BLOCK
  | CKEY
  | KS
  | OUT
  | REC
deriving DecidableEq, Repr

/-- How many elements a buffer has; element numbers run from 0 to one below it (R26 to R28, R41, R44, R46 to R48). -/
def ByteBuf.extent : ByteBuf → Nat
  | .PT => Config.PT_MAX
  | .KEY => Config.KEY_MAX
  | .NONCE => 12
  | .BLOCK => 64
  | .CKEY => Config.KEY_MAX
  | .KS => Config.PT_MAX
  | .OUT => Config.PT_MAX
  | .REC => Config.PT_MAX

/-- The request registers the host writes (R121). -/
inductive ReqReg where
  | N
  | PLEN
  | KLEN
  | NLEN
deriving DecidableEq, Repr

/-- The request buffers the host writes (R121). -/
inductive ReqBuf where
  | PT
  | KEY
  | NONCE
deriving DecidableEq, Repr

def ReqBuf.toByteBuf : ReqBuf → ByteBuf
  | .PT => .PT
  | .KEY => .KEY
  | .NONCE => .NONCE

/-- The registers the host reads (R123). -/
inductive ReadReg where
  | CMD
  | N
  | PLEN
  | KLEN
  | NLEN
  | STATUS
  | ERR
  | VERIFY_OK
  | OLEN
  | KSLEN
  | TLEN
deriving DecidableEq, Repr

/-- What the host reads in one move (R123): a register, one element of a byte buffer, or one trace record. -/
inductive ReadTarget where
  | reg (r : ReadReg)
  | elem (b : ByteBuf) (k : Nat)
  | record (k : Nat)
deriving DecidableEq, Repr

/-- What a read returns; the codes of `STATUS`, `ERR` and `VERIFY_OK` are zero-extended to a word. -/
inductive HostValue where
  | reg (v : Word)
  | byte (v : Byte)
  | record (r : TraceRecord)
deriving DecidableEq, Repr

/-- The moves of the host: `H_WRITE_REQ` on a register or on an element, `H_START`, `H_READ` (R120). -/
inductive HostMove where
  | writeReg (r : ReqReg) (v : Word)
  | writeElem (b : ReqBuf) (k : Nat) (v : Byte)
  | start (w : Word)
  | read (t : ReadTarget)
deriving DecidableEq, Repr

/-- What comes from outside at a point of the run (assumption 2). -/
inductive Input where
  /-- One step passes with no act of the host. -/
  | pass
  /-- The host makes a move as the caller of a synchronous call: while `STATUS` = BUSY it waits (R120, R124). -/
  | host (m : HostMove)
  /-- The host accesses CORE without waiting. While `STATUS` = BUSY only a read of `STATUS` or `ERR` has a meaning
  (R51, R123, R284). -/
  | hostNow (m : HostMove)
  /-- The reset event (R280). -/
  | reset
deriving DecidableEq, Repr

end Sys2Proof.Machine
end

