-- ==== Sys2Proof/Syntax.lean ====
section
/-! DEFINITION. The instructions of CORE, one constructor per row of the opcode table: the three commands of format
`CMD` and the thirteen micro-operations of format `UOP` (30_encoding.md R90). -/

namespace Sys2Proof

/-- One instruction. The fields of a command are the option bits of its word (R91); its other operands stand in the
request registers and buffers (R93). A micro-operation has no field: its operands are registers. -/
inductive Instr where
  /-- `RUN_SPC` (R96, R128); `nv` says that register `N` holds the stateSize the caller supplied. -/
  | runSpc (nv : Bool)
  /-- `RUN_ARX` (R97, R129). -/
  | runArx
  /-- `RUN_PAC` (R98, R130). -/
  | runPac (mode : PacMode) (preserve : Bool)
  /-- `U_VALIDATE` (R126). -/
  | uValidate
  /-- `U_SPC_INIT` (R151). -/
  | uSpcInit
  /-- `U_KSA_STEP` (R152). -/
  | uKsaStep
  /-- `U_PRGA_INIT` (R153). -/
  | uPrgaInit
  /-- `U_PRGA_STEP` (R154). -/
  | uPrgaStep
  /-- `U_SPC_VERIFY` (R155). -/
  | uSpcVerify
  /-- `U_ARX_INIT` (R183). -/
  | uArxInit
  /-- `U_ARX_COPY` (R186). -/
  | uArxCopy
  /-- `U_ARX_QR` (R187). -/
  | uArxQr
  /-- `U_ARX_FINAL` (R189). -/
  | uArxFinal
  /-- `U_ARX_XOR` (R190). -/
  | uArxXor
  /-- `U_PAC_CLEAN` (R222). -/
  | uPacClean
  /-- `U_PAC_CHAR` (R223). -/
  | uPacChar
deriving DecidableEq, Repr

end Sys2Proof
end

