-- ==== Sys2Proof/WellFormed.lean ====
section
/-! DEFINITION. Which instructions and which moves of the host are well formed. -/

namespace Sys2Proof

/-- Every instruction is well formed: its fields are the option bits of R96 to R98, each of which may be 0 or 1, and
no operand of a micro-operation is in the instruction (30_encoding.md R90, R91, R93). -/
def Instr.wellFormed : Instr → Bool
  | .runSpc _ => true
  | .runArx => true
  | .runPac _ _ => true
  | .uValidate => true
  | .uSpcInit => true
  | .uKsaStep => true
  | .uPrgaInit => true
  | .uPrgaStep => true
  | .uSpcVerify => true
  | .uArxInit => true
  | .uArxCopy => true
  | .uArxQr => true
  | .uArxFinal => true
  | .uArxXor => true
  | .uPacClean => true
  | .uPacChar => true

/-- A move of the host is well formed when it names a location the host has a move for (40_frontend.md R121 to R123,
10_state.md R51): the index of a buffer element lies in the buffer, and `CKEY` is never read. -/
def Machine.HostMove.wellFormed : Machine.HostMove → Bool
  | .writeReg _ _ => true
  | .writeElem b k _ => decide (k < b.toByteBuf.extent)
  | .start _ => true
  | .read (.reg _) => true
  | .read (.elem b k) => b != .CKEY && decide (k < b.extent)
  | .read (.record k) => decide (k < 2 ^ 32)

end Sys2Proof
end

