-- ==== Sys2Proof/Decode.lean ====
section
/-! DEFINITION. Decoding and encoding (30_encoding.md R90 to R101). CORE has no instruction memory: what is decoded is
the 32-bit value of register `CMD` or the 8-bit value of register `PHASE`. -/

namespace Sys2Proof

/-- The contents of the register that selects an instruction: format `CMD` or format `UOP` (R90). -/
inductive Encoded where
  | cmd (w : Word)
  | uop (c : BitVec 8)
deriving DecidableEq, Repr

/-- Why a value selects no instruction. -/
inductive DecodeError where
  /-- The word matches none of `RUN_SPC`, `RUN_ARX`, `RUN_PAC` (R101). -/
  | illegalCommand (w : Word)
  /-- The code is one of the three rest states `P_IDLE`, `P_DONE`, `P_ERROR`, which select no micro-operation (R99). -/
  | restPhase (c : BitVec 8)
  /-- The code is in no row of the `PHASE` table; no rule ever writes it (R99). -/
  | unassignedPhase (c : BitVec 8)
deriving DecidableEq, Repr

/-! The `PHASE` codes (R99). -/

abbrev P_IDLE : BitVec 8 := 0x00
abbrev P_VALIDATE : BitVec 8 := 0x01
abbrev P_SPC_INIT : BitVec 8 := 0x10
abbrev P_KSA : BitVec 8 := 0x11
abbrev P_PRGA_INIT : BitVec 8 := 0x12
abbrev P_PRGA : BitVec 8 := 0x13
abbrev P_SPC_VERIFY : BitVec 8 := 0x14
abbrev P_ARX_INIT : BitVec 8 := 0x20
abbrev P_ARX_COPY : BitVec 8 := 0x21
abbrev P_ARX_QR : BitVec 8 := 0x22
abbrev P_ARX_FINAL : BitVec 8 := 0x23
abbrev P_ARX_XOR : BitVec 8 := 0x24
abbrev P_PAC_CLEAN : BitVec 8 := 0x30
abbrev P_PAC_CHAR : BitVec 8 := 0x31
abbrev P_DONE : BitVec 8 := 0xF0
abbrev P_ERROR : BitVec 8 := 0xF1

/-! The fields of a command word (R91). -/

/-- `CMD.OP`, bits 3:0. -/
def cmdOp (w : Word) : BitVec 4 := w.extractLsb' 0 4

/-- `CMD.MODE`, bit 4: false encrypts, true decrypts. -/
def cmdModeBit (w : Word) : Bool := w.getLsbD 4

/-- `CMD.PRES`, bit 5: true preserves non-letters. -/
def cmdPres (w : Word) : Bool := w.getLsbD 5

/-- `CMD.NV`, bit 6: true when register `N` holds the caller's stateSize. -/
def cmdNv (w : Word) : Bool := w.getLsbD 6

/-- The PAC mode a mode bit stands for (R91). -/
def pacModeOfBit (b : Bool) : PacMode := if b then .decrypt else .encrypt

/-- The command a word selects: the match and mask values of R96, R97, R98; anything else is illegal (R101). -/
def decodeCmd (w : Word) : Except DecodeError Instr :=
  if w &&& 0xFFFFFFBF#32 = 0x00000001#32 then .ok (.runSpc (cmdNv w))
  else if w &&& 0xFFFFFFFF#32 = 0x00000002#32 then .ok .runArx
  else if w &&& 0xFFFFFFCF#32 = 0x00000003#32 then .ok (.runPac (pacModeOfBit (cmdModeBit w)) (cmdPres w))
  else .error (.illegalCommand w)

/-- The rows of the `PHASE` table that select a micro-operation (R99). -/
def uopTable : List (BitVec 8 × Instr) :=
  [(P_VALIDATE, .uValidate),
   (P_SPC_INIT, .uSpcInit), (P_KSA, .uKsaStep), (P_PRGA_INIT, .uPrgaInit), (P_PRGA, .uPrgaStep),
   (P_SPC_VERIFY, .uSpcVerify),
   (P_ARX_INIT, .uArxInit), (P_ARX_COPY, .uArxCopy), (P_ARX_QR, .uArxQr), (P_ARX_FINAL, .uArxFinal),
   (P_ARX_XOR, .uArxXor),
   (P_PAC_CLEAN, .uPacClean), (P_PAC_CHAR, .uPacChar)]

/-- The micro-operation a `PHASE` code selects (R99, R125). -/
def decodeUop (c : BitVec 8) : Except DecodeError Instr :=
  match uopTable.find? (fun row => row.1 == c) with
  | some row => .ok row.2
  | none => if c = P_IDLE ∨ c = P_DONE ∨ c = P_ERROR then .error (.restPhase c) else .error (.unassignedPhase c)

/-- The instruction a register value selects. -/
def decode : Encoded → Except DecodeError Instr
  | .cmd w => decodeCmd w
  | .uop c => decodeUop c

/-- A command word from its fields (R91); the reserved bits 31:7 are 0. -/
def cmdWord (op : BitVec 4) (mode pres nv : Bool) : Word :=
  BitVec.setWidth 32 (BitVec.ofBool nv ++ BitVec.ofBool pres ++ BitVec.ofBool mode ++ op)

/-- The word of RUN_SPC (R96). -/
def spcWord (nv : Bool) : Word := cmdWord 1 false false nv

/-- The word of RUN_ARX (R97). -/
def arxWord : Word := cmdWord 2 false false false

/-- The word of RUN_PAC (R98). -/
def pacWord (mode : PacMode) (preserve : Bool) : Word := cmdWord 3 (mode == .decrypt) preserve false

/-- The register value that selects an instruction: the patterns of R96 to R98 and the codes of R99. -/
def encode : Instr → Encoded
  | .runSpc nv => .cmd (spcWord nv)
  | .runArx => .cmd arxWord
  | .runPac mode preserve => .cmd (pacWord mode preserve)
  | .uValidate => .uop 0x01
  | .uSpcInit => .uop 0x10
  | .uKsaStep => .uop 0x11
  | .uPrgaInit => .uop 0x12
  | .uPrgaStep => .uop 0x13
  | .uSpcVerify => .uop 0x14
  | .uArxInit => .uop 0x20
  | .uArxCopy => .uop 0x21
  | .uArxQr => .uop 0x22
  | .uArxFinal => .uop 0x23
  | .uArxXor => .uop 0x24
  | .uPacClean => .uop 0x30
  | .uPacChar => .uop 0x31

/-- The word an instruction's encoding is, whatever its format. -/
def Encoded.toNat : Encoded → Nat
  | .cmd w => w.toNat
  | .uop c => c.toNat

/-- The width of an instruction's encoding: 32 bits for `CMD`, 8 bits for `UOP` (R90). -/
def Encoded.nbits : Encoded → Nat
  | .cmd _ => 32
  | .uop _ => 8

/-- The encoding that `nbits` bits of value `w` are, in the numbering of the opcode table: none for a width that is no
format, or a value that does not fit it. -/
def encodedOfTableWord (nbits w : Nat) : Option Encoded :=
  if w < 2 ^ nbits then
    if nbits = 32 then some (.cmd (BitVec.ofNat 32 w))
    else if nbits = 8 then some (.uop (BitVec.ofNat 8 w))
    else none
  else none

/-- The instruction the decoder reads from an opcode-table word. -/
def decodeTableWord (nbits w : Nat) : Option Instr :=
  match encodedOfTableWord nbits w with
  | none => none
  | some e =>
    match decode e with
    | .ok i => some i
    | .error _ => none

end Sys2Proof
end

