-- ==== Sys2Proof/Machine/State.lean ====
section
/-! DEFINITION. The state of CORE (10_state.md R20 to R55) as plain data, the reasons a step can stop, and the state
after reset. -/

namespace Sys2Proof.Machine

/-- A buffer space: its elements that hold a value, as (element number, value) pairs with element numbers strictly
rising. An element that is not listed holds no value (R53). `Memory Byte` is a list of `Host.Cell`. -/
abbrev Memory (α : Type) := List (Nat × α)

/-- Why the machine stops with a fault. None of these is an error of CORE (those are taken: `State.raise`); each stops
the model in a state that no run reaches, so each is safe. -/
inductive Fault where
  /-- A `mod` by 0 (N, `KLEN` or `CLEN` is 0): R9 says that none is applied. Raised by `U_KSA_STEP`, `U_PRGA_STEP`,
  `U_PAC_CHAR`. Safe. -/
  | divisorZero
  /-- A working or result buffer element is read that holds no value: "reading one before it is written would be a
  fault of the model" (R53). Raised by `U_SPC_VERIFY`, `U_ARX_XOR`, `U_PAC_CHAR` and by a read of the host. Safe. -/
  | readBeforeWritten (b : ByteBuf)
  /-- A trace record is read by the host that holds no value (R53). Safe. -/
  | recordBeforeWritten
  /-- A buffer element is written that the buffer does not have (R61). Raised by the micro-operations that write
  `CKEY`, `KS`, `OUT`, `REC`. Safe. -/
  | outsideBuffer (b : ByteBuf)
  /-- An element of `S` at or above 256 is named (R36). Raised by the SPC micro-operations. Safe. -/
  | outsideS
  /-- A cleaned-key letter outside 0x41 to 0x5A is used (R44 says that every valid element is in that range). Raised by
  `U_PAC_CHAR`. Safe. -/
  | ckeyNotLetter
  /-- `STATUS` is BUSY and `PHASE` selects no micro-operation, which never occurs (R31, R99). Raised by `step`. Safe. -/
  | noMicroOperation (code : BitVec 8)
deriving DecidableEq, Repr

/-- Which bound of 40_frontend.md R127 a request that is not admitted exceeds. -/
inductive Excess where
  /-- `PLEN` > `PT_MAX`. -/
  | plaintextLength
  /-- `KLEN` > `KEY_MAX`. -/
  | keyLength
  /-- RUN_SPC with `NV` = 1 and stateSize > `N_MAX`. -/
  | stateSize
  /-- RUN_ARX with `KLEN` > 32. -/
  | arxKeyLength
  /-- RUN_ARX with `NLEN` > 12. -/
  | arxNonceLength
deriving DecidableEq, Repr

/-- Why a step is refused: the spec gives it no meaning. -/
inductive Refusal where
  /-- An instruction without a meaning in this model: none. -/
  | notModelled (mnemonic : String)
  /-- The request is outside the admitted set: "a model must mark it refused" (R127, R262). Raised by `U_VALIDATE`.
  Safe. -/
  | notAdmitted (e : Excess)
  /-- A length register of the request covers a buffer element that has held no value since reset, or such an element
  is read (R283; 93_implementation_defined.md U10: `refuse`). Raised by `U_VALIDATE`, by the micro-operations that read
  `PT`, `KEY`, `NONCE` and by a read of the host. Safe. -/
  | requestUnwritten (b : ByteBuf)
  /-- A move of the host while `STATUS` = BUSY: the host has no such move (R124, U4). Raised by the meanings of the
  commands and by the moves of the host, and by `step` for a host that does not wait. Safe. -/
  | hostMoveWhileBusy
  /-- A move of the host that names a location it has no move for (R51, R121, R123). Safe. -/
  | noSuchHostMove
deriving DecidableEq, Repr

/-- The state of CORE, under the spec's own names, and three fields of the model (`inputs`, `returned`, `draws`). -/
structure State where
  /-- Command word (R21). -/
  CMD : Word
  /-- stateSize, read as an `i32` (R22). -/
  N : Word
  /-- Plaintext length (R23). -/
  PLEN : Word
  /-- Key length (R24). -/
  KLEN : Word
  /-- Nonce length (R25). -/
  NLEN : Word
  /-- Plaintext (R26). -/
  PT : Memory Byte
  /-- Key (R27). -/
  KEY : Memory Byte
  /-- Nonce (R28). -/
  NONCE : Memory Byte
  /-- Run status, a 2-bit code (R29). -/
  STATUS : Status
  /-- Error kind of the last run, a 3-bit code (R30). -/
  ERR : ErrKind
  /-- Position of the sequencer (R31). -/
  PHASE : BitVec 8
  /-- Loop counter (R32). -/
  IDX : Word
  /-- Ordinal of the next quarter-round (R33). -/
  QN : BitVec 7
  /-- Outcome of the in-run decryption check (R34). -/
  VERIFY_OK : Bool
  /-- Number of valid elements of `OUT` (R35). -/
  OLEN : Word
  /-- Number of valid elements of `KS` and `REC` (R35). -/
  KSLEN : Word
  /-- Number of valid trace records (R35). -/
  TLEN : Word
  /-- SPC permutation array (R36). -/
  S : Vector Byte 256
  /-- SPC scanning index (R37). -/
  I : Byte
  /-- SPC scanning index (R37). -/
  J : Byte
  /-- ARX initial matrix (R39). -/
  MI : Vector Word 16
  /-- ARX working matrix (R40). -/
  MW : Vector Word 16
  /-- ARX keystream block (R41). -/
  BLOCK : Memory Byte
  /-- PAC cleaned key (R44). -/
  CKEY : Memory Byte
  /-- Length of the cleaned key (R44). -/
  CLEN : Word
  /-- PAC key cursor (R45). -/
  CUR : Word
  /-- Keystream (R46). -/
  KS : Memory Byte
  /-- Output (R47). -/
  OUT : Memory Byte
  /-- Plaintext recovered by the in-run check (R48). -/
  REC : Memory Byte
  /-- Trace records (R49). -/
  TRACE : Memory TraceRecord
  /-- MODEL's own (assumption 2): what comes from outside, next first. -/
  inputs : List Input
  /-- MODEL's own (assumption 2): the values `H_READ` has returned to the host, oldest first. -/
  returned : List HostValue
  /-- MODEL's own (assumption 6): how many free values the run has used. -/
  draws : Nat
deriving DecidableEq, Repr

/-- The state after reset (R52, R53, R281). The registers for which R53 states no value (`IDX`, `QN`, `I`, `J`, `CLEN`,
`CUR`, and the register files `S`, `MI`, `MW`) are zero here: DESIGN CHOICE, assumption 1. The buffers hold no value. -/
def State.reset : State where
  CMD := 0
  N := 0
  PLEN := 0
  KLEN := 0
  NLEN := 0
  PT := []
  KEY := []
  NONCE := []
  STATUS := .idle
  ERR := .noError
  PHASE := P_IDLE
  IDX := 0
  QN := 0
  VERIFY_OK := false
  OLEN := 0
  KSLEN := 0
  TLEN := 0
  S := Vector.replicate 256 0
  I := 0
  J := 0
  MI := Vector.replicate 16 0
  MW := Vector.replicate 16 0
  BLOCK := []
  CKEY := []
  CLEN := 0
  CUR := 0
  KS := []
  OUT := []
  REC := []
  TRACE := []
  inputs := []
  returned := []
  draws := 0

end Sys2Proof.Machine
end

