-- ==== Sys2Proof/Machine/Ops.lean ====
section
/-! DEFINITION. The operations the meanings share: the primitives of 00_scope.md R9 to R15, reads and writes of the
buffers, the trace, and the end of a run by an error (60_exceptions.md R256) or by `finish` (40_frontend.md R131). -/

namespace Sys2Proof.Machine

/-! ## Outcomes -/

/-- What an operation answers: a value, or the reason the machine stops. -/
abbrev Res (α : Type) := Host.Outcome α Fault Refusal

/-- Go on with the value, or stop. -/
def Res.andThen {α β : Type} (x : Res α) (f : α → Res β) : Res β :=
  match x with
  | .next a => f a
  | .fault r => .fault r
  | .refused r => .refused r

/-! ## Words and bytes (R9, R10) -/

/-- `rotl32(v, r)`, for 1 ≤ r ≤ 31: ((v × 2^r) mod 2^32) + (v div 2^(32 − r)) (R9). -/
def rotl32 (v : Word) (r : Nat) : Word := (v <<< r) + (v >>> (32 - r))

/-- `le32(b0, b1, b2, b3)`: `b0` is the least significant byte (R10). -/
def le32 (b0 b1 b2 b3 : Byte) : Word := b3 ++ b2 ++ b1 ++ b0

/-- `le_bytes(w)`: the least significant byte first (R10). -/
def leBytes (w : Word) : List Byte :=
  [w.extractLsb' 0 8, w.extractLsb' 8 8, w.extractLsb' 16 8, w.extractLsb' 24 8]

/-! ## Character classes (R15) -/

def isUpper (c : Byte) : Bool := decide (0x41 ≤ c.toNat ∧ c.toNat ≤ 0x5A)

def isLower (c : Byte) : Bool := decide (0x61 ≤ c.toNat ∧ c.toNat ≤ 0x7A)

def isLetter (c : Byte) : Bool := isUpper c || isLower c

def upper (c : Byte) : Byte := if isLower c then c - 0x20 else c

/-! ## Buffers (20_memory.md R60, R61, R69) -/

/-- The value an element holds, if it holds one. -/
def Memory.read {α : Type} : Memory α → Nat → Option α
  | [], _ => none
  | (a, v) :: m, k => if a = k then some v else Memory.read m k

/-- Write one element, keeping the element numbers strictly rising. -/
def Memory.write {α : Type} : Memory α → Nat → α → Memory α
  | [], k, v => [(k, v)]
  | (a, w) :: m, k, v =>
    if k < a then (k, v) :: (a, w) :: m
    else if k = a then (k, v) :: m
    else (a, w) :: Memory.write m k v

/-- Whether every element below n holds a value. -/
def Memory.filled {α : Type} (m : Memory α) : Nat → Bool
  | 0 => true
  | n + 1 => (m.read n).isSome && m.filled n

/-- The elements below n in order. -/
def Memory.upTo {α : Type} (m : Memory α) (n : Nat) : List (Option α) := (List.range n).map m.read

/-- The canonical form of a buffer: element numbers strictly rising. -/
abbrev Memory.wf {α : Type} (m : Memory α) : Prop := m.Pairwise (fun x y => x.1 < y.1)

/-- A byte buffer by its name. -/
def State.buf (s : State) : ByteBuf → Memory Byte
  | .PT => s.PT
  | .KEY => s.KEY
  | .NONCE => s.NONCE
  | .BLOCK => s.BLOCK
  | .CKEY => s.CKEY
  | .KS => s.KS
  | .OUT => s.OUT
  | .REC => s.REC

/-- The state with another content of one byte buffer. -/
def State.setBuf (s : State) (b : ByteBuf) (m : Memory Byte) : State :=
  match b with
  | .PT => { s with PT := m }
  | .KEY => { s with KEY := m }
  | .NONCE => { s with NONCE := m }
  | .BLOCK => { s with BLOCK := m }
  | .CKEY => { s with CKEY := m }
  | .KS => { s with KS := m }
  | .OUT => { s with OUT := m }
  | .REC => { s with REC := m }

/-- The stop for an element that holds no value: a refusal for the request the host loads (R283), a fault for what the
sequencer itself writes (R53). -/
def noValue {α : Type} (b : ByteBuf) : Res α :=
  match b with
  | .PT | .KEY | .NONCE => .refused (.requestUnwritten b)
  | .BLOCK | .CKEY | .KS | .OUT | .REC => .fault (.readBeforeWritten b)

/-- `BUF[k]`. -/
def State.readByte (s : State) (b : ByteBuf) (k : Nat) : Res Byte :=
  match (s.buf b).read k with
  | some v => .next v
  | none => noValue b

/-- `BUF[k] <- v`, for an element the buffer has. -/
def State.writeByte (s : State) (b : ByteBuf) (k : Nat) (v : Byte) : Res State :=
  if k < b.extent then .next (s.setBuf b ((s.buf b).write k v)) else .fault (.outsideBuffer b)

/-- `BUF[k .. k+n−1]`, read in order. -/
def State.readBytes (s : State) (b : ByteBuf) (k : Nat) : Nat → Res (List Byte)
  | 0 => .next []
  | n + 1 =>
    (s.readByte b k).andThen fun v =>
    (s.readBytes b (k + 1) n).andThen fun vs =>
    .next (v :: vs)

/-- `BUF[k .. k+n−1] <- vs`, written in order, n the length of `vs`. -/
def State.writeBytes (s : State) (b : ByteBuf) (k : Nat) : List Byte → Res State
  | [] => .next s
  | v :: vs => (s.writeByte b k v).andThen fun s' => s'.writeBytes b (k + 1) vs

/-! ## The SPC register file (R36) -/

/-- `S[i]`. -/
def getS (S : Vector Byte 256) (i : Byte) : Byte := S[i.toNat]'(i.isLt)

/-- `swap(S, a, b)` (R11). -/
def swap (S : Vector Byte 256) (a b : Byte) : Vector Byte 256 :=
  (S.set a.toNat (getS S b) a.isLt).set b.toNat (getS S a) b.isLt

/-- Copy of `S[0..n−1]`. -/
def sPrefix (S : Vector Byte 256) (n : Nat) : List Byte := S.toList.take n

/-! ## Counters and trace (R14) -/

/-- The request of the run in progress: what its results may depend on (R93, R133). -/
def State.runRequest (s : State) : RunRequest where
  cmd := s.CMD
  stateSize := if cmdOp s.CMD = 1 then some s.N else none
  text := s.PT.upTo s.PLEN.toNat
  key := s.KEY.upTo s.KLEN.toNat
  nonce := if cmdOp s.CMD = 2 then s.NONCE.upTo s.NLEN.toNat else []

/-- A 32-bit counter increased by one; past 2^32 − 1 a free value (assumption 6). -/
def Counter.succ (c : Counter) (request : RunRequest) (draws : Nat) (v : Word) : Word :=
  if v = BitVec.allOnes 32 then Config.counterOverflow c request draws else v + 1

/-- How many free values the run has used after a counter that held `v` is increased by one. -/
def drawsAfter (draws : Nat) (v : Word) : Nat := if v = BitVec.allOnes 32 then draws + 1 else draws

/-- The kind tag of a record: the `PHASE` code of the micro-operation that emits it (30_encoding.md R103 to R112). -/
def TraceRecord.tag : TraceRecord → BitVec 8
  | .ksaStep .. => 0x11
  | .prgaStep .. => 0x13
  | .spcVerify .. => 0x14
  | .arxInit .. => 0x20
  | .arxQr .. => 0x22
  | .arxFinal .. => 0x23
  | .arxXor .. => 0x24
  | .pacClean .. => 0x30
  | .pacChar .. => 0x31

/-- `emit`: `TRACE[TLEN] <- r; TLEN <- TLEN + 1` (R14). -/
def State.emit (s : State) (r : TraceRecord) : State :=
  { s with
    TRACE := s.TRACE.write s.TLEN.toNat r, TLEN := Counter.succ .tlen s.runRequest s.draws s.TLEN
    draws := drawsAfter s.draws s.TLEN }

/-! ## The end of a run -/

/-- Error entry, `raise Kind`: these three writes and no others (R256). -/
def State.raise (s : State) (k : ErrKind) : State :=
  { s with ERR := k, PHASE := P_ERROR, STATUS := .error }

/-- `finish`, the end of a successful run (R131). There is no return from an error (R259). -/
def State.finish (s : State) : State :=
  { s with PHASE := P_DONE, STATUS := .done }

end Sys2Proof.Machine
end

