-- ==== Sys2Proof/Machine/Operands.lean ====
section
/-! DEFINITION. The operand forms of the micro-operations: the stateSize (30_encoding.md R94), the five index forms
(20_memory.md R76), the zero padding of key and nonce (R77), the cleaned key (43_pac.md R222), the index groups of the
quarter-rounds (42_arx.md R185) and the letter positions (43_pac.md R221, R224). -/

namespace Sys2Proof.Machine

/-! ## SPC -/

/-- The stateSize as the signed number `sext_32(N)` (R94). -/
def State.stateSize (s : State) : Int := s.N.toInt

/-- N as the extent of a loop over `S`: `S[0..N−1]` lies in the register file when N ≤ 256 (R36). -/
def State.spcExtent (s : State) : Res Nat :=
  if s.N.toNat ≤ Config.N_MAX then .next s.N.toNat else .fault .outsideS

/-- N as a divisor and as the extent of `S`: the validated stateSize, 1 to 256 (R156). -/
def State.spcModulus (s : State) : Res Nat :=
  s.spcExtent.andThen fun n => if n = 0 then .fault .divisorZero else .next n

/-- `IDX` as an index of `S` (R76 form 1). -/
def State.idxOfS (s : State) : Res Byte :=
  if s.IDX.toNat < 256 then .next (BitVec.ofNat 8 s.IDX.toNat) else .fault .outsideS

/-- `KEY[k mod KLEN]` (R76 form 2). -/
def State.keyCycled (s : State) (k : Nat) : Res Byte :=
  if s.KLEN.toNat = 0 then .fault .divisorZero else s.readByte .KEY (k % s.KLEN.toNat)

/-- A sum reduced `mod n` once, as an index of `S` (R76 form 3, R156); n is at most 256. -/
def modIndex (sum n : Nat) : Byte := BitVec.ofNat 8 (sum % n)

/-- `S[x] = x` for x below n; the other elements as they were (R151). -/
def identityBelow (S : Vector Byte 256) (n : Nat) : Vector Byte 256 :=
  Vector.ofFn fun x => if x.val < n then BitVec.ofNat 8 x.val else S[x.val]

/-! ## ARX -/

/-- The four constant words of matrix row 0 (R42, R182). -/
def C0 : Word := 0x61707865
def C1 : Word := 0x3320646e
def C2 : Word := 0x79622d32
def C3 : Word := 0x6b206574

/-- The ARX counter word: the constant 1 (R42). -/
def arxCounter : Word := 1

/-- The given key bytes that lie in the padded 32-byte key (R77). -/
def State.keyHead (s : State) : Res (List Byte) := s.readBytes .KEY 0 (min s.KLEN.toNat 32)

/-- The given nonce bytes that lie in the padded 12-byte nonce (R77). -/
def State.nonceHead (s : State) : Res (List Byte) := s.readBytes .NONCE 0 (min s.NLEN.toNat 12)

/-- The byte at position x of a given byte string padded with zeros at its end (R77). -/
def padded (given : List Byte) (x : Nat) : Byte := given.getD x 0

/-- Word m of a padded byte string: `le32` of the four bytes from position 4m on (R63). -/
def paddedWord (given : List Byte) (m : Nat) : Word :=
  le32 (padded given (4 * m)) (padded given (4 * m + 1)) (padded given (4 * m + 2)) (padded given (4 * m + 3))

/-- The initial matrix from the given key and nonce bytes (R181, R183). -/
def initialMatrix (key nonce : List Byte) : Vector Word 16 :=
  #v[C0, C1, C2, C3,
     paddedWord key 0, paddedWord key 1, paddedWord key 2, paddedWord key 3,
     paddedWord key 4, paddedWord key 5, paddedWord key 6, paddedWord key 7,
     arxCounter, paddedWord nonce 0, paddedWord nonce 1, paddedWord nonce 2]

/-- The four matrix indices of a quarter-round. -/
structure Group where
  a : Fin 16
  b : Fin 16
  c : Fin 16
  d : Fin 16
deriving DecidableEq, Repr

/-- The index group of each slot (R185). -/
def group : Fin 8 → Group
  | 0 => ⟨0, 4, 8, 12⟩
  | 1 => ⟨1, 5, 9, 13⟩
  | 2 => ⟨2, 6, 10, 14⟩
  | 3 => ⟨3, 7, 11, 15⟩
  | 4 => ⟨0, 5, 10, 15⟩
  | 5 => ⟨1, 6, 11, 12⟩
  | 6 => ⟨2, 7, 8, 13⟩
  | 7 => ⟨3, 4, 9, 14⟩

/-- `slot = QN mod 8` (R100). -/
def slotOf (qn : Nat) : Fin 8 := ⟨qn % 8, Nat.mod_lt _ (by decide)⟩

/-- The twelve values assigned by the statements of the quarter-round, in order (R184, R108). -/
def qrSteps (a b c d : Word) : Vector Word 12 :=
  let s0 := a + b
  let s1 := d ^^^ s0
  let s2 := rotl32 s1 16
  let s3 := c + s2
  let s4 := b ^^^ s3
  let s5 := rotl32 s4 12
  let s6 := s0 + s5
  let s7 := s2 ^^^ s6
  let s8 := rotl32 s7 8
  let s9 := s3 + s8
  let s10 := s5 ^^^ s9
  let s11 := rotl32 s10 7
  #v[s0, s1, s2, s3, s4, s5, s6, s7, s8, s9, s10, s11]

/-- The working matrix after one quarter-round on the words of a group (R187). -/
def quarterRoundAt (MW : Vector Word 16) (g : Group) : Vector Word 16 :=
  let steps := qrSteps MW[g.a] MW[g.b] MW[g.c] MW[g.d]
  (((MW.set g.a steps[6]).set g.b steps[11]).set g.c steps[9]).set g.d steps[8]

/-- The element-wise sums of two matrices, modulo 2^32 (R189). -/
def matrixSum (MW MI : Vector Word 16) : Vector Word 16 := Vector.zipWith (· + ·) MW MI

/-- Sixteen words serialized into 64 bytes, each word little-endian (R64). -/
def serialize (words : Vector Word 16) : List Byte := words.toList.flatMap leBytes

/-! ## PAC -/

/-- The alphabet: the 26 bytes 0x41 to 0x5A in order (R43). -/
def ALPHABET : Vector Byte 26 := Vector.ofFn fun p => BitVec.ofNat 8 (0x41 + p.val)

/-- The letters of a key, upper-cased, in the original order (R222). -/
def cleanKey (key : List Byte) : List Byte := (key.filter isLetter).map upper

/-- The 0-based position of an upper-case letter (R221). -/
def letterPos (u : Byte) : Nat := u.toNat - 0x41

/-- The output position (R224). -/
def outputPos (mode : PacMode) (p kpos : Nat) : Nat :=
  match mode with
  | .encrypt => (p + kpos) % 26
  | .decrypt => (p + 26 - kpos) % 26

/-- The letter at position q of `ALPHABET` (0 to 25), in the case of the input letter (R225). -/
def letterAt (q : Nat) (lower : Bool) : Byte := BitVec.ofNat 8 (0x41 + q + if lower then 0x20 else 0)

/-- The index `CUR mod CLEN` of the current key letter and that letter (R76 form 5); valid elements of `CKEY` are upper-case letters
(R44). -/
def State.keyLetter (s : State) : Res (Nat × Byte) :=
  if s.CLEN.toNat = 0 then .fault .divisorZero
  else
    let ki := s.CUR.toNat % s.CLEN.toNat
    (s.readByte .CKEY ki).andThen fun kl =>
    if isUpper kl then .next (ki, kl) else .fault .ckeyNotLetter

end Sys2Proof.Machine
end

