-- ==== Sys2Proof/Machine/Flags.lean ====
section
/-! DEFINITION. The registers that carry the outcome of a run: the codes of `STATUS` and `ERR` (30_encoding.md R102), and
the writes of the result lengths and of `VERIFY_OK` (10_state.md R34, R35). There is no other flag (R35). -/

namespace Sys2Proof.Machine

/-- The 2-bit code of `STATUS` (R102). -/
def statusCode : Status → BitVec 2
  | .idle => 0
  | .busy => 1
  | .done => 2
  | .error => 3

/-- The 3-bit code of `ERR` (R102, R250). -/
def errCode : ErrKind → BitVec 3
  | .noError => 0
  | .invalidParameter => 1
  | .emptyInput => 2
  | .invalidKey => 3
  | .illegalCommand => 4

/-- The flags that H_START clears (R122). -/
def State.clearResults (s : State) : State :=
  { s with ERR := .noError, VERIFY_OK := false, OLEN := 0, KSLEN := 0, TLEN := 0 }

/-- `KSLEN <- k + 1 ; OLEN <- k + 1`, for k = `IDX` (R154, R190). -/
def State.setLengths (s : State) : State :=
  { s with KSLEN := s.IDX + 1, OLEN := s.IDX + 1 }

/-- The condition that `VERIFY_OK` records: the recovered bytes equal the plaintext byte for byte (R155). -/
def verifyOk (recovered plaintext : List Byte) : Bool := decide (recovered = plaintext)

end Sys2Proof.Machine
end

