-- ==== Sys2Proof/Machine/HostMoves.lean ====
section
/-! DEFINITION. The three moves of the host (40_frontend.md R121 to R123) and the reset event
(70_reset_and_hazards.md R280). -/

namespace Sys2Proof.Machine

/-- `H_START(w)`: enabled only when `STATUS` ≠ BUSY (R122). The run has used no free value yet (R133; assumption 6). -/
def hStart (w : Word) (s : State) : Res State :=
  if s.STATUS = .busy then .refused .hostMoveWhileBusy
  else .next { s.clearResults with CMD := w, PHASE := P_VALIDATE, STATUS := .busy, draws := 0 }

/-- `H_WRITE_REQ` on a request register (R121). -/
def hWriteReg (r : ReqReg) (v : Word) (s : State) : Res State :=
  if s.STATUS = .busy then .refused .hostMoveWhileBusy
  else
    match r with
    | .N => .next { s with N := v }
    | .PLEN => .next { s with PLEN := v }
    | .KLEN => .next { s with KLEN := v }
    | .NLEN => .next { s with NLEN := v }

/-- `H_WRITE_REQ` on one element of a request buffer (R121). -/
def hWriteElem (b : ReqBuf) (k : Nat) (v : Byte) (s : State) : Res State :=
  if s.STATUS = .busy then .refused .hostMoveWhileBusy
  else if k < b.toByteBuf.extent then .next (s.setBuf b.toByteBuf ((s.buf b.toByteBuf).write k v))
  else .refused .noSuchHostMove

/-- The value of a register the host reads, zero-extended to a word. -/
def State.readReg (s : State) : ReadReg → Word
  | .CMD => s.CMD
  | .N => s.N
  | .PLEN => s.PLEN
  | .KLEN => s.KLEN
  | .NLEN => s.NLEN
  | .STATUS => (statusCode s.STATUS).setWidth 32
  | .ERR => (errCode s.ERR).setWidth 32
  | .VERIFY_OK => (BitVec.ofBool s.VERIFY_OK).setWidth 32
  | .OLEN => s.OLEN
  | .KSLEN => s.KSLEN
  | .TLEN => s.TLEN

/-- `STATUS` and `ERR` may be read at any time (R51, R123). -/
def ReadTarget.anyTime : ReadTarget → Bool
  | .reg .STATUS => true
  | .reg .ERR => true
  | _ => false

/-- Which elements of a byte buffer the host may read: the request buffers whole, the result buffers where they are
valid; `BLOCK` after a RUN_ARX and `REC` after a RUN_SPC that ended DONE; `CKEY` never (R51, R123). -/
def State.readable (s : State) (b : ByteBuf) (k : Nat) : Bool :=
  match b with
  | .PT | .KEY | .NONCE => decide (k < b.extent)
  | .OUT => decide (k < s.OLEN.toNat)
  | .KS => decide (k < s.KSLEN.toNat)
  | .REC => decide (s.STATUS = .done ∧ cmdOp s.CMD = 1 ∧ k < s.KSLEN.toNat)
  | .BLOCK => decide (s.STATUS = .done ∧ cmdOp s.CMD = 2 ∧ k < 64)
  | .CKEY => false

/-- The value an `H_READ` returns. -/
def State.hostValue (s : State) : ReadTarget → Res HostValue
  | .reg r => .next (.reg (s.readReg r))
  | .elem b k =>
    if s.readable b k then (s.readByte b k).andThen fun v => .next (.byte v) else .refused .noSuchHostMove
  | .record k =>
    if k < s.TLEN.toNat then
      match s.TRACE.read k with
      | some r => .next (.record r)
      | none => .fault .recordBeforeWritten
    else .refused .noSuchHostMove

/-- `H_READ(target)`: returns the value and changes nothing (R123). -/
def hRead (t : ReadTarget) (s : State) : Res State :=
  if s.STATUS = .busy ∧ t.anyTime = false then .refused .hostMoveWhileBusy
  else (s.hostValue t).andThen fun v => .next { s with returned := s.returned ++ [v] }

/-- The reset event (R280): the state of R52 and R53, whatever the state was. What comes from outside afterwards, and
what the host has already read, lie outside CORE and stay (assumption 12). -/
def State.resetEvent (s : State) : State :=
  { State.reset with inputs := s.inputs, returned := s.returned }

end Sys2Proof.Machine
end

