-- ==== Sys2Proof/Machine/Frontend.lean ====
section
/-! DEFINITION. The three commands and `U_VALIDATE` (40_frontend.md R126 to R130). A command's own step is the `H_START`
of its word; its micro-operations are the steps that follow (assumption 3). -/

namespace Sys2Proof.Machine

/-- `RUN_SPC` (R128): start the run with word 0x00000001 or 0x00000041. -/
def execRunSpc (nv : Bool) (s : State) : Res State := hStart (spcWord nv) s

/-- `RUN_ARX` (R129): start the run with word 0x00000002. -/
def execRunArx (s : State) : Res State := hStart arxWord s

/-- `RUN_PAC` (R130): start the run with word 0x00000003, 0x00000013, 0x00000023 or 0x00000033. -/
def execRunPac (mode : PacMode) (preserve : Bool) (s : State) : Res State := hStart (pacWord mode preserve) s

/-- The bound of R127 that a request with a legal command exceeds, if it exceeds one. -/
def State.excess (s : State) : Option Excess :=
  if Config.PT_MAX < s.PLEN.toNat then some .plaintextLength
  else if Config.KEY_MAX < s.KLEN.toNat then some .keyLength
  else if cmdOp s.CMD = 1 ∧ cmdNv s.CMD = true ∧ (Config.N_MAX : Int) < s.stateSize then some .stateSize
  else if cmdOp s.CMD = 2 ∧ 32 < s.KLEN.toNat then some .arxKeyLength
  else if cmdOp s.CMD = 2 ∧ 12 < s.NLEN.toNat then some .arxNonceLength
  else none

/-- Whether the word in `CMD` is one of the three commands (R101). -/
def legalCommand (w : Word) : Bool :=
  match decodeCmd w with
  | .ok _ => true
  | .error _ => false

/-- The buffer of the request in which a length register covers an element that has held no value since reset, if there
is one (R283, U10). `NONCE` is an operand of RUN_ARX only (R93). -/
def State.unwritten (s : State) : Option ByteBuf :=
  if s.PT.filled s.PLEN.toNat = false then some .PT
  else if s.KEY.filled s.KLEN.toNat = false then some .KEY
  else if cmdOp s.CMD = 2 ∧ s.NONCE.filled s.NLEN.toNat = false then some .NONCE
  else none

/-- The checks of `U_VALIDATE` after those of the command word, and the first phase of the engine (R126). -/
def State.checkOperands (s : State) : State :=
  if s.PLEN = 0 ∨ s.KLEN = 0 then s.raise .emptyInput
  else if cmdOp s.CMD = 1 then
    if cmdNv s.CMD = false ∨ s.stateSize ≤ 0 then s.raise .invalidParameter
    else { s with PHASE := P_SPC_INIT }
  else if cmdOp s.CMD = 2 then { s with PHASE := P_ARX_INIT }
  else { s with PHASE := P_PAC_CLEAN }

/-- `U_VALIDATE` (R126), for admitted requests (R127) whose operands are written (R283). -/
def execUValidate (s : State) : Res State :=
  if legalCommand s.CMD = false then .next (s.raise .illegalCommand)
  else
    match s.excess with
    | some e => .refused (.notAdmitted e)
    | none =>
      match s.unwritten with
      | some b => .refused (.requestUnwritten b)
      | none => .next s.checkOperands

end Sys2Proof.Machine
end

