-- ==== Sys2Proof/Machine/Arx.lean ====
section
/-! DEFINITION. The five micro-operations of the ARX engine (42_arx.md R183, R186, R187, R189, R190). -/

namespace Sys2Proof.Machine

/-- `U_ARX_INIT` (R183). -/
def execUArxInit (s : State) : Res State :=
  s.keyHead.andThen fun key =>
  s.nonceHead.andThen fun nonce =>
  let mi := initialMatrix key nonce
  .next { { s with MI := mi }.emit (.arxInit mi) with PHASE := P_ARX_COPY }

/-- `U_ARX_COPY` (R186). -/
def execUArxCopy (s : State) : Res State :=
  .next { s with MW := s.MI, QN := 0, PHASE := P_ARX_QR }

/-- `U_ARX_QR` (R187). -/
def execUArxQr (s : State) : Res State :=
  let g := group (slotOf s.QN.toNat)
  let steps := qrSteps s.MW[g.a] s.MW[g.b] s.MW[g.c] s.MW[g.d]
  let mw := quarterRoundAt s.MW g
  let s1 := { s with MW := mw }.emit
    (.arxQr s.QN.toNat g.a.val g.b.val g.c.val g.d.val s.MW[g.a] s.MW[g.b] s.MW[g.c] s.MW[g.d] steps
      steps[6] steps[11] steps[9] steps[8] mw)
  .next (if s.QN.toNat < 79 then { s1 with QN := s.QN + 1 } else { s1 with PHASE := P_ARX_FINAL })

/-- `U_ARX_FINAL` (R189). -/
def execUArxFinal (s : State) : Res State :=
  let sum := matrixSum s.MW s.MI
  let block := serialize sum
  (s.writeBytes .BLOCK 0 block).andThen fun s1 =>
  .next { s1.emit (.arxFinal s.MW sum block) with IDX := 0, PHASE := P_ARX_XOR }

/-- `U_ARX_XOR` (R190). -/
def execUArxXor (s : State) : Res State :=
  let k := s.IDX.toNat
  let bi := k % 64
  (s.readByte .PT k).andThen fun p =>
  (s.readByte .BLOCK bi).andThen fun z =>
  (s.writeByte .KS k z).andThen fun s1 =>
  (s1.writeByte .OUT k (p ^^^ z)).andThen fun s2 =>
  let s3 := s2.setLengths.emit (.arxXor k bi p z (p ^^^ z))
  .next (if k + 1 < s.PLEN.toNat then { s3 with IDX := s.IDX + 1 } else s3.finish)

end Sys2Proof.Machine
end

