-- ==== Sys2Proof/Machine/Pac.lean ====
section
/-! DEFINITION. The two micro-operations of the PAC engine (43_pac.md R222, R223). -/

namespace Sys2Proof.Machine

/-- The fallback of R231: the text is copied to the output, whatever `MODE` and `PRES` are, and `InvalidKey` raised. -/
def invalidKeyFallback (s : State) : Res State :=
  (s.readBytes .PT 0 s.PLEN.toNat).andThen fun pt =>
  (s.writeBytes .OUT 0 pt).andThen fun s1 =>
  .next ({ s1 with OLEN := s.PLEN }.raise .invalidKey)

/-- `U_PAC_CLEAN` (R222). -/
def execUPacClean (s : State) : Res State :=
  (s.readBytes .KEY 0 s.KLEN.toNat).andThen fun key =>
  let ckey := cleanKey key
  (s.writeBytes .CKEY 0 ckey).andThen fun s1 =>
  let s2 := { s1 with CLEN := BitVec.ofNat 32 ckey.length }.emit (.pacClean ckey)
  if ckey = [] then invalidKeyFallback s2
  else .next { s2 with CUR := 0, IDX := 0, PHASE := P_PAC_CHAR }

/-- Append one character to the output: `OUT[OLEN] <- c ; OLEN <- OLEN + 1` (R223). -/
def State.appendOut (s : State) (c : Byte) : Res State :=
  (s.writeByte .OUT s.OLEN.toNat c).andThen fun s1 => .next { s1 with OLEN := s.OLEN + 1 }

/-- A character that is not a letter: kept or dropped; the key cursor does not move (R226). -/
def pacNonLetter (c : Byte) (s : State) : Res State :=
  if cmdPres s.CMD = true then
    (s.appendOut c).andThen fun s1 => .next (s1.emit (.pacChar s.IDX.toNat c .kept))
  else .next (s.emit (.pacChar s.IDX.toNat c .dropped))

/-- A letter: shifted by the current key letter; the key cursor moves by one (R223, R224, R225). -/
def pacLetter (c : Byte) (s : State) : Res State :=
  s.keyLetter.andThen fun key =>
  let lower := isLower c
  let p := letterPos (upper c)
  let kpos := letterPos key.2
  let q := outputPos (pacModeOfBit (cmdModeBit s.CMD)) p kpos
  let o := letterAt q lower
  (s.appendOut o).andThen fun s1 =>
  let s2 := s1.emit (.pacChar s.IDX.toNat c (.letter lower p s.CUR.toNat key.1 key.2 kpos q o))
  .next { s2 with CUR := Counter.succ .cur s.runRequest s2.draws s.CUR, draws := drawsAfter s2.draws s.CUR }

/-- `U_PAC_CHAR` (R223). -/
def execUPacChar (s : State) : Res State :=
  let k := s.IDX.toNat
  (s.readByte .PT k).andThen fun c =>
  (if isLetter c then pacLetter c s else pacNonLetter c s).andThen fun s1 =>
  .next (if k + 1 < s.PLEN.toNat then { s1 with IDX := s.IDX + 1 } else s1.finish)

end Sys2Proof.Machine
end

