-- ==== Sys2Proof/Machine/Spc.lean ====
section
/-! DEFINITION. The five micro-operations of the SPC engine (41_spc.md R151 to R155). -/

namespace Sys2Proof.Machine

/-- `U_SPC_INIT` (R151). -/
def execUSpcInit (s : State) : Res State :=
  s.spcExtent.andThen fun n =>
  .next { s with S := identityBelow s.S n, J := 0, IDX := 0, PHASE := P_KSA }

/-- `U_KSA_STEP` (R152). -/
def execUKsaStep (s : State) : Res State :=
  s.spcModulus.andThen fun n =>
  s.idxOfS.andThen fun i =>
  (s.keyCycled s.IDX.toNat).andThen fun kb =>
  let j := modIndex (s.J.toNat + (getS s.S i).toNat + kb.toNat) n
  let S' := swap s.S i j
  let s1 := { s with J := j, S := S' }.emit
    (.ksaStep s.IDX.toNat kb (sPrefix s.S n) j.toNat (sPrefix S' n))
  .next (if s.IDX.toNat + 1 < n then { s1 with IDX := s.IDX + 1 } else { s1 with PHASE := P_PRGA_INIT })

/-- `U_PRGA_INIT` (R153). -/
def execUPrgaInit (s : State) : Res State :=
  .next { s with I := 0, J := 0, IDX := 0, PHASE := P_PRGA }

/-- `U_PRGA_STEP` (R154). -/
def execUPrgaStep (s : State) : Res State :=
  s.spcModulus.andThen fun n =>
  let k := s.IDX.toNat
  (s.readByte .PT k).andThen fun p =>
  let i := modIndex (s.I.toNat + 1) n
  let j := modIndex (s.J.toNat + (getS s.S i).toNat) n
  let S' := swap s.S i j
  let t := modIndex ((getS S' i).toNat + (getS S' j).toNat) n
  let z := getS S' t
  ({ s with I := i, J := j, S := S' }.writeByte .KS k z).andThen fun s1 =>
  (s1.writeByte .OUT k (p ^^^ z)).andThen fun s2 =>
  let s3 := s2.setLengths.emit
    (.prgaStep k i.toNat j.toNat (getS S' i) (getS S' j) t.toNat z p (p ^^^ z) (sPrefix S' n))
  .next (if k + 1 < s.PLEN.toNat then { s3 with IDX := s.IDX + 1 } else { s3 with PHASE := P_SPC_VERIFY })

/-- `U_SPC_VERIFY` (R155). -/
def execUSpcVerify (s : State) : Res State :=
  let n := s.PLEN.toNat
  (s.readBytes .OUT 0 n).andThen fun out =>
  (s.readBytes .KS 0 n).andThen fun ks =>
  (s.readBytes .PT 0 n).andThen fun pt =>
  let recovered := List.zipWith (· ^^^ ·) out ks
  (s.writeBytes .REC 0 recovered).andThen fun s1 =>
  let ok := verifyOk recovered pt
  .next (({ s1 with VERIFY_OK := ok }.emit (.spcVerify recovered ok)).finish)

end Sys2Proof.Machine
end

