-- ==== Sys2Proof/Machine/Dispatch.lean ====
section
/-! DEFINITION. One arm per instruction. -/

namespace Sys2Proof.Machine

def exec (i : Instr) (s : State) : Host.Outcome State Fault Refusal :=
  match i with
  | .runSpc nv => Sys2Proof.Machine.execRunSpc nv s
  | .runArx => Sys2Proof.Machine.execRunArx s
  | .runPac mode preserve => Sys2Proof.Machine.execRunPac mode preserve s
  | .uValidate => Sys2Proof.Machine.execUValidate s
  | .uSpcInit => Sys2Proof.Machine.execUSpcInit s
  | .uKsaStep => Sys2Proof.Machine.execUKsaStep s
  | .uPrgaInit => Sys2Proof.Machine.execUPrgaInit s
  | .uPrgaStep => Sys2Proof.Machine.execUPrgaStep s
  | .uSpcVerify => Sys2Proof.Machine.execUSpcVerify s
  | .uArxInit => Sys2Proof.Machine.execUArxInit s
  | .uArxCopy => Sys2Proof.Machine.execUArxCopy s
  | .uArxQr => Sys2Proof.Machine.execUArxQr s
  | .uArxFinal => Sys2Proof.Machine.execUArxFinal s
  | .uArxXor => Sys2Proof.Machine.execUArxXor s
  | .uPacClean => Sys2Proof.Machine.execUPacClean s
  | .uPacChar => Sys2Proof.Machine.execUPacChar s

end Sys2Proof.Machine
end

