-- ==== Sys2Proof/Machine/Agents.lean ====
section
/-! DEFINITION. What each agent does when it acts, and which of them a step lets act (40_frontend.md R120, R125;
70_reset_and_hazards.md R280). -/

namespace Sys2Proof.Machine

/-- The sequencer's move: the micro-operation that `PHASE` selects (R125). -/
def sequencerMove (s : State) : Res State :=
  match decodeUop s.PHASE with
  | .ok i => exec i s
  | .error _ => .fault (.noMicroOperation s.PHASE)

/-- A move of the host (R120); the write of `CMD` is the command its word selects, or the start of a run that
`U_VALIDATE` will end with `IllegalCommand` (R101, R122). -/
def hostMove (m : HostMove) (s : State) : Res State :=
  match m with
  | .writeReg r v => hWriteReg r v s
  | .writeElem b k v => hWriteElem b k v s
  | .read t => hRead t s
  | .start w =>
    match decodeCmd w with
    | .ok i => exec i s
    | .error _ => hStart w s

/-- Whether the next input is acted on although a run is in progress: reset (R280), and an access of a host that does
not wait (R284). -/
def Input.preempts : Input → Bool
  | .pass => false
  | .host _ => false
  | .hostNow _ => true
  | .reset => true

/-- Act on an input. -/
def actOn (inp : Input) (s : State) : Res State :=
  match inp with
  | .pass => .next s
  | .host m => hostMove m s
  | .hostNow m => hostMove m s
  | .reset => .next s.resetEvent

/-- The step while `STATUS` = BUSY: the sequencer moves, unless the next input preempts it; a host that waits stays the
next input. -/
def busyStep (s : State) : Res State :=
  match s.inputs with
  | [] => sequencerMove s
  | inp :: rest =>
    if inp.preempts then actOn inp { s with inputs := rest }
    else if inp = .pass then sequencerMove { s with inputs := rest }
    else sequencerMove s

/-- The step while no run is in progress: the next input is acted on; with no input nothing happens. -/
def restStep (s : State) : Res State :=
  match s.inputs with
  | [] => .next s
  | inp :: rest => actOn inp { s with inputs := rest }

end Sys2Proof.Machine
end

