-- ==== Sys2Proof/Machine/Step.lean ====
section
/-! DEFINITION. One step: the move of the agent whose turn it is (40_frontend.md R120), or an event from outside. -/

namespace Sys2Proof.Machine

/-- One step: the move of the agent whose turn it is, or an event from outside (R120, R280; assumption 2). -/
def step (s : State) : Host.Outcome State Fault Refusal :=
  if s.STATUS = .busy then busyStep s else restStep s

/-- The state in which the next step runs the instruction whose bits are `w`: a command word is the next move of a host
that finds no run in progress; a micro-operation code stands in `PHASE` of a sequencer that is to move
(assumption 4). -/
def State.withFetchWord (s : State) (nbits w : Nat) : State :=
  if nbits = 8 then
    { s with PHASE := BitVec.ofNat 8 w, STATUS := .busy, inputs := .pass :: s.inputs }
  else
    { s with
      STATUS := if s.STATUS = .busy then .idle else s.STATUS
      inputs := .host (.start (BitVec.ofNat 32 w)) :: s.inputs }

end Sys2Proof.Machine
end

