-- ==== Sys2Proof/Machine/Reference.lean ====
section
/-! DEFINITION. The engines as functions of the request alone (41_spc.md R150, 42_arx.md R180, 43_pac.md R220), and the
textual requests as the host's moves they stand for (30_encoding.md R113, R114). The step function does not use these:
statements compare it with them. -/

namespace Sys2Proof.Machine

/-- The bytewise `xor` of two byte strings. -/
def xorBytes (x y : List Byte) : List Byte := List.zipWith (· ^^^ ·) x y

/-! ## SPC_KSA, SPC_PRGA, SPC_RUN (R150) -/

/-- `swap` on a list (R11). -/
def swapList (S : List Byte) (a b : Nat) : List Byte := (S.set a (S.getD b 0)).set b (S.getD a 0)

/-- `S` and `j` after the first i iterations of the key schedule. -/
def ksaAfter (key : List Byte) (n : Nat) : Nat → List Byte × Nat
  | 0 => ((List.range n).map (BitVec.ofNat 8), 0)
  | i + 1 =>
    let (S, j) := ksaAfter key n i
    let j' := (j + (S.getD i 0).toNat + (key.getD (i % key.length) 0).toNat) % n
    (swapList S i j', j')

/-- `SPC_KSA(key, N)`. -/
def spcKsa (key : List Byte) (n : Nat) : List Byte := (ksaAfter key n n).1

/-- `S`, `i` and `j` after the first k bytes of the generation phase. -/
def prgaAfter (S0 : List Byte) (n : Nat) : Nat → List Byte × Nat × Nat
  | 0 => (S0, 0, 0)
  | k + 1 =>
    let (S, i, j) := prgaAfter S0 n k
    let i' := (i + 1) % n
    let j' := (j + (S.getD i' 0).toNat) % n
    (swapList S i' j', i', j')

/-- The k-th keystream byte: `S[t]` after step k + 1. -/
def prgaByte (S0 : List Byte) (n k : Nat) : Byte :=
  let (S, i, j) := prgaAfter S0 n (k + 1)
  S.getD (((S.getD i 0).toNat + (S.getD j 0).toNat) % n) 0

/-- `SPC_PRGA(S, len, N)`. -/
def spcPrga (S0 : List Byte) (n len : Nat) : List Byte := (List.range len).map (prgaByte S0 n)

/-- The keystream of a run. -/
def spcKeystream (key : List Byte) (n len : Nat) : List Byte := spcPrga (spcKsa key n) n len

/-- The output of a run. -/
def spcOutput (pt key : List Byte) (n : Nat) : List Byte := xorBytes pt (spcKeystream key n pt.length)

/-- The record of key-schedule iteration i (R104). -/
def ksaRecord (key : List Byte) (n i : Nat) : TraceRecord :=
  .ksaStep i (key.getD (i % key.length) 0) (ksaAfter key n i).1 (ksaAfter key n (i + 1)).2 (ksaAfter key n (i + 1)).1

/-- The record of plaintext byte k (R105). -/
def prgaRecord (pt : List Byte) (S0 : List Byte) (n k : Nat) : TraceRecord :=
  let (S, i, j) := prgaAfter S0 n (k + 1)
  let si := S.getD i 0
  let sj := S.getD j 0
  let z := prgaByte S0 n k
  .prgaStep k i j si sj ((si.toNat + sj.toNat) % n) z (pt.getD k 0) (pt.getD k 0 ^^^ z) S

/-- The trace of a successful run (R157). -/
def spcTrace (pt key : List Byte) (n : Nat) : List TraceRecord :=
  (List.range n).map (ksaRecord key n) ++ (List.range pt.length).map (prgaRecord pt (spcKsa key n) n) ++
    [.spcVerify pt true]

/-! ## ARX_BLOCK, ARX_RUN (R180) -/

/-- The working matrix after the first q quarter-rounds. -/
def arxAfter (mi : Vector Word 16) : Nat → Vector Word 16
  | 0 => mi
  | q + 1 => quarterRoundAt (arxAfter mi q) (group (slotOf q))

/-- `ARX_BLOCK(key, nonce)`. -/
def arxBlock (key nonce : List Byte) : List Byte :=
  let mi := initialMatrix key nonce
  serialize (matrixSum (arxAfter mi 80) mi)

/-- The keystream of a run: `BLOCK[k mod 64]`. -/
def arxKeystream (key nonce : List Byte) (len : Nat) : List Byte :=
  (List.range len).map fun k => (arxBlock key nonce).getD (k % 64) 0

/-- The output of a run. -/
def arxOutput (pt key nonce : List Byte) : List Byte := xorBytes pt (arxKeystream key nonce pt.length)

/-- The record of quarter-round q (R108). -/
def arxQrRecord (mi : Vector Word 16) (q : Nat) : TraceRecord :=
  let mw := arxAfter mi q
  let g := group (slotOf q)
  let steps := qrSteps mw[g.a] mw[g.b] mw[g.c] mw[g.d]
  .arxQr q g.a.val g.b.val g.c.val g.d.val mw[g.a] mw[g.b] mw[g.c] mw[g.d] steps
    steps[6] steps[11] steps[9] steps[8] (arxAfter mi (q + 1))

/-- The record of plaintext byte k (R110). -/
def arxXorRecord (pt block : List Byte) (k : Nat) : TraceRecord :=
  let z := block.getD (k % 64) 0
  .arxXor k (k % 64) (pt.getD k 0) z (pt.getD k 0 ^^^ z)

/-- The trace of a successful run (R192). -/
def arxTrace (pt key nonce : List Byte) : List TraceRecord :=
  let mi := initialMatrix key nonce
  let work := arxAfter mi 80
  [.arxInit mi] ++ (List.range 80).map (arxQrRecord mi) ++
    [.arxFinal work (matrixSum work mi) (arxBlock key nonce)] ++
    (List.range pt.length).map (arxXorRecord pt (arxBlock key nonce))

/-! ## PAC_RUN (R220) -/

/-- The output for the rest of the text, the key cursor standing at `cur`. -/
def pacFrom (mode : PacMode) (preserve : Bool) (ckey : List Byte) : Nat → List Byte → List Byte
  | _, [] => []
  | cur, c :: cs =>
    if isLetter c then
      letterAt (outputPos mode (letterPos (upper c)) (letterPos (ckey.getD (cur % ckey.length) 0))) (isLower c)
        :: pacFrom mode preserve ckey (cur + 1) cs
    else if preserve then c :: pacFrom mode preserve ckey cur cs
    else pacFrom mode preserve ckey cur cs

/-- The output of a run whose key holds a letter. -/
def pacOutput (mode : PacMode) (preserve : Bool) (pt key : List Byte) : List Byte :=
  pacFrom mode preserve (cleanKey key) 0 pt

/-- The record of one letter, the key cursor standing at `cur` (R112). -/
def pacLetterRecord (mode : PacMode) (ckey : List Byte) (k cur : Nat) (c : Byte) : TraceRecord :=
  let p := letterPos (upper c)
  let ki := cur % ckey.length
  let kl := ckey.getD ki 0
  let q := outputPos mode p (letterPos kl)
  .pacChar k c (.letter (isLower c) p cur ki kl (letterPos kl) q (letterAt q (isLower c)))

/-- The records of the rest of the text, from character k on. -/
def pacRecords (mode : PacMode) (preserve : Bool) (ckey : List Byte) : Nat → Nat → List Byte → List TraceRecord
  | _, _, [] => []
  | k, cur, c :: cs =>
    if isLetter c then pacLetterRecord mode ckey k cur c :: pacRecords mode preserve ckey (k + 1) (cur + 1) cs
    else .pacChar k c (if preserve then .kept else .dropped) :: pacRecords mode preserve ckey (k + 1) cur cs

/-- The trace of a run whose key holds a letter (R227). -/
def pacTrace (mode : PacMode) (preserve : Bool) (pt key : List Byte) : List TraceRecord :=
  .pacClean (cleanKey key) :: pacRecords mode preserve (cleanKey key) 0 0 pt

/-! ## Requests (R113, R114) -/

/-- A textual request; `n = none` is `n=none`. -/
inductive Request where
  | runSpc (pt key : List Byte) (n : Option Word)
  | runArx (pt key nonce : List Byte)
  | runPac (pt key : List Byte) (mode : PacMode) (preserve : Bool)
  | decSpc (ct key : List Byte) (n : Option Word)
  | decArx (ct key nonce : List Byte)
deriving DecidableEq, Repr

/-- The moves that load a byte string into a request buffer from element k on. -/
def loadBytes (b : ReqBuf) (k : Nat) : List Byte → List HostMove
  | [] => []
  | v :: vs => .writeElem b k v :: loadBytes b (k + 1) vs

/-- The moves that load a byte string and its length. -/
def loadString (b : ReqBuf) (r : ReqReg) (bytes : List Byte) : List HostMove :=
  loadBytes b 0 bytes ++ [.writeReg r (BitVec.ofNat 32 bytes.length)]

/-- The moves of RUN_SPC: with `n=none` register `N` is untouched and `NV` is 0. -/
def spcMoves (pt key : List Byte) (n : Option Word) : List HostMove :=
  loadString .PT .PLEN pt ++ loadString .KEY .KLEN key ++
    (match n with
     | some v => [.writeReg .N v, .start (spcWord true)]
     | none => [.start (spcWord false)])

/-- The moves of RUN_ARX; the default nonce is the empty string. -/
def arxMoves (pt key nonce : List Byte) : List HostMove :=
  loadString .PT .PLEN pt ++ loadString .KEY .KLEN key ++ loadString .NONCE .NLEN nonce ++ [.start arxWord]

/-- The moves of RUN_PAC. -/
def pacMoves (pt key : List Byte) (mode : PacMode) (preserve : Bool) : List HostMove :=
  loadString .PT .PLEN pt ++ loadString .KEY .KLEN key ++ [.start (pacWord mode preserve)]

/-- The moves of the host that a request stands for: load every named operand, then `H_START` (R113). A pseudo-command
is the command it expands to, with the ciphertext as its text (R114). -/
def Request.moves : Request → List HostMove
  | .runSpc pt key n => spcMoves pt key n
  | .runArx pt key nonce => arxMoves pt key nonce
  | .runPac pt key mode preserve => pacMoves pt key mode preserve
  | .decSpc ct key n => spcMoves ct key n
  | .decArx ct key nonce => arxMoves ct key nonce

end Sys2Proof.Machine
end

