-- ==== Sys2Proof/Safety.lean ====
section
/-! DEFINITION. The terms in which statements about CORE are made: what a buffer holds, which state two states share,
runs of several steps, and the invariant `Inv` that every reachable state meets. -/

namespace Sys2Proof.Machine

/-! ## Buffers -/

/-- Every element below n holds a value. -/
def Memory.filledBelow {α : Type} (m : Memory α) (n : Nat) : Prop := ∀ k, k < n → ∃ v, m.read k = some v

/-- The buffer holds the sequence from element 0 on. -/
def Memory.holds {α : Type} (m : Memory α) (l : List α) : Prop := ∀ k, k < l.length → m.read k = l[k]?

/-- Every element that holds a value lies below n. -/
def Memory.within {α : Type} (m : Memory α) (n : Nat) : Prop := ∀ p ∈ m, p.1 < n

/-! ## What two states share -/

/-- The operands the host loaded (10_state.md R22 to R28). -/
structure SameOperands (s t : State) : Prop where
  N : t.N = s.N
  PLEN : t.PLEN = s.PLEN
  KLEN : t.KLEN = s.KLEN
  NLEN : t.NLEN = s.NLEN
  PT : t.PT = s.PT
  KEY : t.KEY = s.KEY
  NONCE : t.NONCE = s.NONCE

/-- SPC working state (R36, R37). -/
structure SameSpc (s t : State) : Prop where
  S : t.S = s.S
  I : t.I = s.I
  J : t.J = s.J

/-- ARX working state (R39 to R41). -/
structure SameArx (s t : State) : Prop where
  MI : t.MI = s.MI
  MW : t.MW = s.MW
  BLOCK : t.BLOCK = s.BLOCK

/-- PAC working state (R44, R45). -/
structure SamePac (s t : State) : Prop where
  CKEY : t.CKEY = s.CKEY
  CLEN : t.CLEN = s.CLEN
  CUR : t.CUR = s.CUR

/-- The result buffers (R46 to R48) and the lengths of output and keystream (R35). -/
structure SameOutput (s t : State) : Prop where
  OLEN : t.OLEN = s.OLEN
  KSLEN : t.KSLEN = s.KSLEN
  KS : t.KS = s.KS
  OUT : t.OUT = s.OUT
  REC : t.REC = s.REC

/-- The trace (R49) and its length. -/
structure SameTrace (s t : State) : Prop where
  TLEN : t.TLEN = s.TLEN
  TRACE : t.TRACE = s.TRACE

/-- `CMD`, the status registers of a run that goes on, and what lies outside CORE. -/
structure SameRun (s t : State) : Prop where
  CMD : t.CMD = s.CMD
  STATUS : t.STATUS = s.STATUS
  ERR : t.ERR = s.ERR
  VERIFY_OK : t.VERIFY_OK = s.VERIFY_OK
  inputs : t.inputs = s.inputs
  returned : t.returned = s.returned

/-- One record has been appended to the trace and nothing else in it has changed (R14). -/
structure Emitted (s t : State) (r : TraceRecord) : Prop where
  record : t.TRACE.read s.TLEN.toNat = some r
  others : ∀ k, k ≠ s.TLEN.toNat → t.TRACE.read k = s.TRACE.read k
  count : s.TLEN.toNat + 1 < 2 ^ 32 → t.TLEN.toNat = s.TLEN.toNat + 1

/-- One element of a byte buffer has been written and no other element of it has changed. -/
structure Stored (before after : Memory Byte) (k : Nat) (v : Byte) : Prop where
  value : after.read k = some v
  others : ∀ x, x ≠ k → after.read x = before.read x

/-- The elements from 0 on have been written with a sequence and no other element has changed. -/
structure StoredAll (before after : Memory Byte) (vs : List Byte) : Prop where
  values : after.holds vs
  others : ∀ x, vs.length ≤ x → after.read x = before.read x

/-! ## Runs -/

/-- k steps, stopping at the first stop. -/
def steps : Nat → State → Res State
  | 0, s => .next s
  | k + 1, s => Res.andThen (step s) (steps k)

/-- Nothing from outside acts while the run goes on: no input is pending, or a host that waits. -/
def State.undisturbed (s : State) : Bool :=
  match s.inputs with
  | [] => true
  | .host _ :: _ => true
  | _ => false

/-- The request is written as the host must write it before a run (70_reset_and_hazards.md R283): the text and the key
stand in `PT` and `KEY`. -/
structure Loaded (s : State) (pt key : List Byte) : Prop where
  PLEN : s.PLEN.toNat = pt.length
  KLEN : s.KLEN.toNat = key.length
  PT : s.PT.holds pt
  KEY : s.KEY.holds key

/-- The nonce stands in `NONCE`. -/
structure LoadedNonce (s : State) (nonce : List Byte) : Prop where
  NLEN : s.NLEN.toNat = nonce.length
  NONCE : s.NONCE.holds nonce

/-! ## The invariant -/

/-- `S[0..n−1]` is a permutation of 0 to n − 1 (R38). -/
def isPermutation (S : Vector Byte 256) (n : Nat) : Prop :=
  (sPrefix S n).Perm ((List.range n).map (BitVec.ofNat 8))

/-- The first n output bytes are the text bytes xor the keystream bytes (R154, R190). -/
def State.encrypted (s : State) (n : Nat) : Prop :=
  ∀ k, k < n → ∃ p z, s.PT.read k = some p ∧ s.KS.read k = some z ∧ s.OUT.read k = some (p ^^^ z)

/-- An admitted request, written, with neither text nor key empty, for the engine of `op` (R126, R127, R283). -/
structure RequestOk (s : State) (op : BitVec 4) : Prop where
  legal : legalCommand s.CMD = true
  engine : cmdOp s.CMD = op
  admitted : s.excess = none
  written : s.unwritten = none
  text : s.PLEN ≠ 0
  key : s.KLEN ≠ 0

/-- The buffers are in canonical form and hold no value outside their extent (20_memory.md R60). -/
structure MemoryOk (s : State) : Prop where
  canonical : ∀ b, (s.buf b).wf
  within : ∀ b, (s.buf b).within b.extent
  traceCanonical : s.TRACE.wf
  traceWithin : s.TRACE.within (2 ^ 32)

/-- `STATUS`, `PHASE` and `ERR` agree (R31, R258). -/
structure StatusOk (s : State) : Prop where
  idle : s.STATUS = .idle ↔ s.PHASE = P_IDLE
  busy : s.STATUS = .busy ↔ ∃ i, decodeUop s.PHASE = .ok i
  done : s.STATUS = .done ↔ s.PHASE = P_DONE
  error : s.STATUS = .error ↔ s.PHASE = P_ERROR
  kind : s.STATUS = .error ↔ s.ERR ≠ .noError

/-- What the host may read has been written (R123, R282), and `VERIFY_OK` is set exactly after a RUN_SPC that ended
DONE (R34, R160). -/
structure ResultsOk (s : State) : Prop where
  out : s.OUT.filledBelow s.OLEN.toNat
  ks : s.KS.filledBelow s.KSLEN.toNat
  trace : s.TRACE.filledBelow s.TLEN.toNat
  recovered : s.STATUS = .done → cmdOp s.CMD = 1 → s.REC.filledBelow s.KSLEN.toNat
  block : s.STATUS = .done → cmdOp s.CMD = 2 → s.BLOCK.filledBelow 64
  verified : s.VERIFY_OK = true ↔ s.STATUS = .done ∧ cmdOp s.CMD = 1

/-- Before the first output byte of a run there is no output (R122). -/
structure FreshOk (s : State) : Prop where
  lengths : s.PHASE ∈ [P_VALIDATE, P_SPC_INIT, P_KSA, P_PRGA_INIT, P_ARX_INIT, P_ARX_COPY, P_ARX_QR, P_ARX_FINAL,
    P_PAC_CLEAN] → s.OLEN = 0 ∧ s.KSLEN = 0
  trace : s.PHASE ∈ [P_VALIDATE, P_SPC_INIT, P_ARX_INIT, P_PAC_CLEAN] → s.TLEN = 0

/-- The phases of RUN_SPC (R36 to R38, R125, R154). -/
structure SpcOk (s : State) : Prop where
  request : s.PHASE ∈ [P_SPC_INIT, P_KSA, P_PRGA_INIT, P_PRGA, P_SPC_VERIFY] →
    RequestOk s 1 ∧ 1 ≤ s.N.toNat ∧ s.N.toNat ≤ 256
  permutation : s.PHASE ∈ [P_KSA, P_PRGA_INIT, P_PRGA, P_SPC_VERIFY] → isPermutation s.S s.N.toNat
  ksa : s.PHASE = P_KSA → s.IDX.toNat < s.N.toNat ∧ s.J.toNat < s.N.toNat
  prga : s.PHASE = P_PRGA → s.IDX.toNat < s.PLEN.toNat ∧ s.I.toNat < s.N.toNat ∧ s.J.toNat < s.N.toNat ∧
    s.OLEN = s.IDX ∧ s.KSLEN = s.IDX ∧ s.encrypted s.IDX.toNat
  verify : s.PHASE = P_SPC_VERIFY → s.OLEN = s.PLEN ∧ s.KSLEN = s.PLEN ∧ s.encrypted s.PLEN.toNat

/-- The phases of RUN_ARX (R39 to R41, R125, R190, R191). -/
structure ArxOk (s : State) : Prop where
  request : s.PHASE ∈ [P_ARX_INIT, P_ARX_COPY, P_ARX_QR, P_ARX_FINAL, P_ARX_XOR] → RequestOk s 2
  quarterRounds : s.PHASE = P_ARX_QR → s.QN.toNat < 80
  xor : s.PHASE = P_ARX_XOR → s.IDX.toNat < s.PLEN.toNat ∧ s.OLEN = s.IDX ∧ s.KSLEN = s.IDX ∧
    s.BLOCK.filledBelow 64 ∧ s.encrypted s.IDX.toNat ∧
    ∀ k, k < s.IDX.toNat → s.KS.read k = s.BLOCK.read (k % 64)

/-- The phases of RUN_PAC (R44, R45, R125, R223). -/
structure PacOk (s : State) : Prop where
  request : s.PHASE ∈ [P_PAC_CLEAN, P_PAC_CHAR] → RequestOk s 3
  char : s.PHASE = P_PAC_CHAR → s.IDX.toNat < s.PLEN.toNat ∧ s.OLEN.toNat ≤ s.IDX.toNat ∧
    s.CUR.toNat ≤ s.IDX.toNat ∧ s.KSLEN = 0 ∧ 1 ≤ s.CLEN.toNat ∧ s.CLEN.toNat ≤ s.KLEN.toNat ∧
    ∀ k, k < s.CLEN.toNat → ∃ v, s.CKEY.read k = some v ∧ isUpper v = true

/-- The invariant: it holds after reset and every step keeps it. -/
structure Inv (s : State) : Prop where
  memory : MemoryOk s
  status : StatusOk s
  results : ResultsOk s
  fresh : FreshOk s
  spc : SpcOk s
  arx : ArxOk s
  pac : PacOk s

end Sys2Proof.Machine
end

