-- ==== Sys2Proof/Certificates/Slice0/Obligations.lean ====
section
/-! DEFINITION. The statements about the model, for the provers. Each docstring names the rules it formalises. -/

open Sys2Proof Sys2Proof.Machine

/-! ## Reset, the step and the invariant -/

/-- R52, R280. From any state, a run in progress included, the reset event puts every register of R52 at its value; the
buffers then hold no value (R53). That what lies outside CORE stays is the model's choice (assumption 2). -/
def Obligations.ResetEventPutsRegistersAtResetValues : Prop :=
  ∀ (s : State) (rest : List Input), s.inputs = .reset :: rest →
    ∃ t, step s = .next t ∧
      t.CMD = 0 ∧ t.N = 0 ∧ t.PLEN = 0 ∧ t.KLEN = 0 ∧ t.NLEN = 0 ∧ t.STATUS = .idle ∧ t.ERR = .noError ∧
      t.PHASE = 0x00 ∧ t.VERIFY_OK = false ∧ t.OLEN = 0 ∧ t.KSLEN = 0 ∧ t.TLEN = 0 ∧
      (∀ b k, (t.buf b).read k = none) ∧ (∀ k, t.TRACE.read k = none) ∧ t.inputs = rest ∧ t.returned = s.returned

/-- The invariant holds after reset (R31, R52). -/
def Obligations.InvariantHoldsAtReset : Prop := Inv State.reset

/-- Every step keeps the invariant: the buffers keep their canonical form and extent, `STATUS`, `PHASE` and `ERR` agree
(R31, R258), `S` stays a permutation during a RUN_SPC (R38), every index stays in its range (R32, R33, R37, R45). -/
def Obligations.EveryStepKeepsTheInvariant : Prop :=
  ∀ s t : State, Inv s → step s = .next t → Inv t

/-- R61, with R9 and R53: in a state that meets the invariant no step divides by zero, names an element outside a buffer
or reads a working or result element that holds no value. -/
def Obligations.InvariantStatesNeverFault : Prop :=
  ∀ (s : State) (f : Fault), Inv s → step s ≠ .fault f

/-- What it is to exceed each bound of R127. -/
def Sys2Proof.Machine.Exceeds (s : State) : Excess → Prop
  | .plaintextLength => Config.PT_MAX < s.PLEN.toNat
  | .keyLength => Config.KEY_MAX < s.KLEN.toNat
  | .stateSize => cmdOp s.CMD = 1 ∧ cmdNv s.CMD = true ∧ 256 < s.N.toInt
  | .arxKeyLength => cmdOp s.CMD = 2 ∧ 32 < s.KLEN.toNat
  | .arxNonceLength => cmdOp s.CMD = 2 ∧ 12 < s.NLEN.toNat

/-- A request element without a value that the length register of its buffer covers (R283), for the operands the command
uses (R93). -/
structure Sys2Proof.Machine.UnwrittenOperand (s : State) (b : ByteBuf) (k : Nat) : Prop where
  unwritten : (s.buf b).read k = none
  covered : (b = .PT ∧ k < s.PLEN.toNat) ∨ (b = .KEY ∧ k < s.KLEN.toNat) ∨
    (b = .NONCE ∧ cmdOp s.CMD = 2 ∧ k < s.NLEN.toNat)

/-- The buffer elements that the host has no read for (R51, R121, R123). -/
def Sys2Proof.Machine.NotReadable (s : State) (k : Nat) : ByteBuf → Prop
  | .PT => Config.PT_MAX ≤ k
  | .KEY => Config.KEY_MAX ≤ k
  | .NONCE => 12 ≤ k
  | .BLOCK => 64 ≤ k ∨ ¬ (s.STATUS = .done ∧ cmdOp s.CMD = 2)
  | .CKEY => True
  | .KS => s.KSLEN.toNat ≤ k
  | .OUT => s.OLEN.toNat ≤ k
  | .REC => s.KSLEN.toNat ≤ k ∨ ¬ (s.STATUS = .done ∧ cmdOp s.CMD = 1)

/-- The moves that a host does not have although no run is in progress (R51, R121, R123): a write outside its buffer, and
a read of what is not readable. -/
def Sys2Proof.Machine.NoSuchMove (s : State) : HostMove → Prop
  | .writeReg _ _ => False
  | .writeElem .PT k _ => Config.PT_MAX ≤ k
  | .writeElem .KEY k _ => Config.KEY_MAX ≤ k
  | .writeElem .NONCE k _ => 12 ≤ k
  | .start _ => False
  | .read (.reg _) => False
  | .read (.elem b k) => NotReadable s k b
  | .read (.record k) => s.TLEN.toNat ≤ k

/-- A step is refused only where the spec gives it no meaning: `U_VALIDATE` on a legal command whose request exceeds a
bound of R127 or whose length registers cover an element without a value (R283); with no run in progress, a read of a
request element without a value (R283) or a move that the host does not have (R121, R123); and during a run an access
of the host other than a read of `STATUS` or `ERR` (R124, R284). Where each refusal arises is the model's choice
(assumptions 2, 5, 7). -/
def Obligations.RefusalsAreTheSpecsOwn : Prop :=
  ∀ (s : State) (r : Refusal), Inv s → step s = .refused r →
    (s.STATUS = .busy ∧ s.PHASE = P_VALIDATE ∧ legalCommand s.CMD = true ∧
      ((∃ e, r = .notAdmitted e ∧ Exceeds s e) ∨
       (∃ b k, r = .requestUnwritten b ∧ (∀ e, ¬ Exceeds s e) ∧ UnwrittenOperand s b k))) ∨
    (s.STATUS = .busy ∧ r = .hostMoveWhileBusy ∧ ∃ m rest, s.inputs = .hostNow m :: rest ∧
      m ≠ .read (.reg .STATUS) ∧ m ≠ .read (.reg .ERR)) ∨
    (s.STATUS ≠ .busy ∧ ∃ m rest, (s.inputs = .host m :: rest ∨ s.inputs = .hostNow m :: rest) ∧
      ((r = .noSuchHostMove ∧ NoSuchMove s m) ∨
       (∃ b k, r = .requestUnwritten b ∧ m = .read (.elem b k) ∧ b ∈ [ByteBuf.PT, .KEY, .NONCE] ∧
         ¬ NotReadable s k b ∧ (s.buf b).read k = none)))

/-- R125. While `STATUS` = BUSY a step is the micro-operation that `PHASE` selects, be no input pending, a host that
waits, or one step to pass; the list of inputs is the model's choice (assumption 2). -/
def Obligations.StepRunsTheSelectedMicroOperation : Prop :=
  ∀ (s : State) (i : Instr), s.STATUS = .busy → decode (.uop s.PHASE) = .ok i →
    (s.inputs = [] → step s = exec i s) ∧
    (∀ m rest, s.inputs = .host m :: rest → step s = exec i s) ∧
    (∀ rest, s.inputs = .pass :: rest → step s = exec i { s with inputs := rest })

/-- R120, R122. While no run is in progress, the host's write of a word that decodes to a command is that command; and
of any word, legal or not, it makes the writes of H_START and no others. That the write is one step and the run the
steps after it, the list of inputs, and the count of free values, which starts again with the run, are the model's
choice (assumptions 2, 3, 6). -/
def Obligations.StepRunsTheCommandTheHostWrites : Prop :=
  ∀ (s : State) (w : Word) (rest : List Input), s.STATUS ≠ .busy → s.inputs = .host (.start w) :: rest →
    (∀ i, decode (.cmd w) = .ok i → step s = exec i { s with inputs := rest }) ∧
    step s = .next
      { s with
        CMD := w, ERR := .noError, VERIFY_OK := false, OLEN := 0, KSLEN := 0, TLEN := 0, PHASE := 0x01, STATUS := .busy
        inputs := rest, draws := 0 }

/-! ## Encoding -/

/-- R96 to R99: words written out from the patterns decode to the instructions they stand for. -/
def Obligations.SpecWordsDecode : Prop :=
  decodeTableWord 32 0b00000000000000000000000001000001 = some (.runSpc true) ∧
  decodeTableWord 32 0b00000000000000000000000000000001 = some (.runSpc false) ∧
  decodeTableWord 32 0b00000000000000000000000000000010 = some .runArx ∧
  decodeTableWord 32 0b00000000000000000000000000010011 = some (.runPac .decrypt false) ∧
  decodeTableWord 32 0b00000000000000000000000000100011 = some (.runPac .encrypt true) ∧
  decodeTableWord 8 0b00010001 = some .uKsaStep ∧
  decodeTableWord 8 0b00100010 = some .uArxQr ∧
  decodeTableWord 8 0b00110001 = some .uPacChar

/-- R96 to R99: a register value decodes to an instruction exactly when it is that instruction's encoding; so no bit of
an encoding is dropped, no two instructions share one, and a value with any other bit set is no instruction. -/
def Obligations.DecodeAndEncodeAgree : Prop :=
  ∀ (e : Encoded) (i : Instr), decode e = .ok i ↔ encode i = e

/-- R101: which words are illegal. -/
def Obligations.IllegalWordsAreThoseOfTheRule : Prop :=
  ∀ w : Word, legalCommand w = false ↔
    (cmdOp w = 0 ∨ 4 ≤ (cmdOp w).toNat) ∨ 2 ^ 7 ≤ w.toNat ∨
    ((cmdModeBit w = true ∨ cmdPres w = true) ∧ (cmdOp w = 1 ∨ cmdOp w = 2)) ∨
    (cmdNv w = true ∧ (cmdOp w = 2 ∨ cmdOp w = 3))

/-! ## The front end -/

/-- What `H_START(w)` does (R122), for the instruction i whose word w is. -/
def Sys2Proof.Machine.StartsRunWith (i : Instr) (w : Word) : Prop :=
  ∀ s : State, s.STATUS ≠ .busy →
    ∃ t, exec i s = .next t ∧ t.CMD = w ∧ t.ERR = .noError ∧ t.VERIFY_OK = false ∧ t.OLEN = 0 ∧ t.KSLEN = 0 ∧
      t.TLEN = 0 ∧ t.PHASE = 0x01 ∧ t.STATUS = .busy ∧
      t.IDX = s.IDX ∧ t.QN = s.QN ∧ t.KS = s.KS ∧ t.OUT = s.OUT ∧ t.REC = s.REC ∧ t.TRACE = s.TRACE ∧
      t.inputs = s.inputs ∧ t.returned = s.returned ∧
      SameOperands s t ∧ SameSpc s t ∧ SameArx s t ∧ SamePac s t

/-- R122 with R96, R97, R98, for `RUN_SPC`, `RUN_ARX`, `RUN_PAC`: in any state without a run in progress the command
starts its run, writes the registers H_START writes and leaves every other one. -/
def Obligations.CommandsStartTheirRun : Prop :=
  StartsRunWith (.runSpc false) 0x00000001 ∧ StartsRunWith (.runSpc true) 0x00000041 ∧
  StartsRunWith .runArx 0x00000002 ∧
  StartsRunWith (.runPac .encrypt false) 0x00000003 ∧ StartsRunWith (.runPac .decrypt false) 0x00000013 ∧
  StartsRunWith (.runPac .encrypt true) 0x00000023 ∧ StartsRunWith (.runPac .decrypt true) 0x00000033

/-- R124, R284: a command written while a run is in progress has no meaning: "refuse" (U4). -/
def Obligations.CommandsAreRefusedDuringARun : Prop :=
  ∀ (s : State) (i : Instr) (w : Word), encode i = .cmd w → s.STATUS = .busy →
    exec i s = .refused .hostMoveWhileBusy

/-- The bounds of R127, for a legal command. -/
structure Sys2Proof.Machine.AdmittedRequest (s : State) : Prop where
  plaintext : s.PLEN.toNat ≤ Config.PT_MAX
  key : s.KLEN.toNat ≤ Config.KEY_MAX
  stateSize : cmdOp s.CMD = 1 → cmdNv s.CMD = true → s.N.toInt ≤ 256
  arxKey : cmdOp s.CMD = 2 → s.KLEN.toNat ≤ 32
  arxNonce : cmdOp s.CMD = 2 → s.NLEN.toNat ≤ 12

/-- What R283 asks of the host before a run: every element below a length register holds a value. -/
structure Sys2Proof.Machine.WrittenRequest (s : State) : Prop where
  text : s.PT.filledBelow s.PLEN.toNat
  key : s.KEY.filledBelow s.KLEN.toNat
  nonce : cmdOp s.CMD = 2 → s.NONCE.filledBelow s.NLEN.toNat

/-- R126, R250 to R256, for `U_VALIDATE` on an admitted request that is written (R283): the checks in their order, the
error entry of R256 for each, and the first phase of the engine when all pass; nothing else is written. -/
def Obligations.ValidateChecksInOrderAndDispatches : Prop :=
  ∀ s : State,
    (legalCommand s.CMD = false →
      exec .uValidate s = .next { s with ERR := .illegalCommand, PHASE := 0xF1, STATUS := .error }) ∧
    (legalCommand s.CMD = true → AdmittedRequest s → WrittenRequest s →
      ((s.PLEN = 0 ∨ s.KLEN = 0) →
        exec .uValidate s = .next { s with ERR := .emptyInput, PHASE := 0xF1, STATUS := .error }) ∧
      (s.PLEN ≠ 0 → s.KLEN ≠ 0 →
        (cmdOp s.CMD = 1 → (cmdNv s.CMD = false ∨ s.N = 0 ∨ s.N.msb = true) →
          exec .uValidate s = .next { s with ERR := .invalidParameter, PHASE := 0xF1, STATUS := .error }) ∧
        (cmdOp s.CMD = 1 → cmdNv s.CMD = true → s.N ≠ 0 → s.N.msb = false →
          exec .uValidate s = .next { s with PHASE := 0x10 }) ∧
        (cmdOp s.CMD = 2 → exec .uValidate s = .next { s with PHASE := 0x20 }) ∧
        (cmdOp s.CMD = 3 → exec .uValidate s = .next { s with PHASE := 0x30 })))

/-- R127, for `U_VALIDATE`: a request with a legal command that exceeds a bound is refused. That the refusal comes at
`U_VALIDATE` is the model's choice (assumption 7). -/
def Obligations.ValidateRefusesWhatIsNotAdmitted : Prop :=
  ∀ s : State, legalCommand s.CMD = true → ¬ AdmittedRequest s →
    ∃ e, exec .uValidate s = .refused (.notAdmitted e)

/-! ## The SPC engine -/

/-- R151, for `U_SPC_INIT`. -/
def Obligations.SpcInitWritesTheIdentity : Prop :=
  ∀ s : State, s.N.toNat ≤ 256 →
    ∃ t, exec .uSpcInit s = .next t ∧
      (∀ x : Byte, getS t.S x = if x.toNat < s.N.toNat then x else getS s.S x) ∧
      t.J = 0 ∧ t.IDX = 0 ∧ t.PHASE = 0x11 ∧
      t.I = s.I ∧ t.QN = s.QN ∧ SameOperands s t ∧ SameArx s t ∧ SamePac s t ∧ SameOutput s t ∧ SameTrace s t ∧
      SameRun s t

/-- R152, for `U_KSA_STEP`, with the operand ranges the rule gives. -/
def Obligations.KsaStepAddsSwapsAndTraces : Prop :=
  ∀ (s : State) (n : Nat) (i kb : Byte), s.N.toNat = n → 1 ≤ n → n ≤ 256 → s.IDX.toNat = i.toNat → i.toNat < n →
    s.KLEN ≠ 0 → s.KEY.read (s.IDX.toNat % s.KLEN.toNat) = some kb →
    ∃ (t : State) (j : Byte), exec .uKsaStep s = .next t ∧
      j.toNat = (s.J.toNat + (getS s.S i).toNat + kb.toNat) % n ∧ t.J = j ∧
      (∀ x, getS t.S x = if x = i then getS s.S j else if x = j then getS s.S i else getS s.S x) ∧
      Emitted s t (.ksaStep i.toNat kb (sPrefix s.S n) j.toNat (sPrefix t.S n)) ∧
      (i.toNat + 1 < n → t.IDX.toNat = i.toNat + 1 ∧ t.PHASE = s.PHASE) ∧
      (i.toNat + 1 = n → t.IDX = s.IDX ∧ t.PHASE = 0x12) ∧
      t.I = s.I ∧ t.QN = s.QN ∧ SameOperands s t ∧ SameArx s t ∧ SamePac s t ∧ SameOutput s t ∧ SameRun s t

/-- R153, for `U_PRGA_INIT`, in every state. -/
def Obligations.PrgaInitClearsTheIndices : Prop :=
  ∀ s : State, ∃ t, exec .uPrgaInit s = .next t ∧ t.I = 0 ∧ t.J = 0 ∧ t.IDX = 0 ∧ t.PHASE = 0x13 ∧
    t.S = s.S ∧ t.QN = s.QN ∧ SameOperands s t ∧ SameArx s t ∧ SamePac s t ∧ SameOutput s t ∧ SameTrace s t ∧
    SameRun s t

/-- R154, for `U_PRGA_STEP`, with the operand ranges the rule gives. -/
def Obligations.PrgaStepEncryptsOneByte : Prop :=
  ∀ (s : State) (n : Nat) (p : Byte), s.N.toNat = n → 1 ≤ n → n ≤ 256 →
    s.IDX.toNat < s.PLEN.toNat → s.PLEN.toNat ≤ Config.PT_MAX → s.PT.read s.IDX.toNat = some p →
    ∃ (t : State) (i j x z : Byte), exec .uPrgaStep s = .next t ∧
      i.toNat = (s.I.toNat + 1) % n ∧ t.I = i ∧
      j.toNat = (s.J.toNat + (getS s.S i).toNat) % n ∧ t.J = j ∧
      (∀ y, getS t.S y = if y = i then getS s.S j else if y = j then getS s.S i else getS s.S y) ∧
      x.toNat = ((getS t.S i).toNat + (getS t.S j).toNat) % n ∧ z = getS t.S x ∧
      Stored s.KS t.KS s.IDX.toNat z ∧ Stored s.OUT t.OUT s.IDX.toNat (p ^^^ z) ∧
      t.KSLEN.toNat = s.IDX.toNat + 1 ∧ t.OLEN.toNat = s.IDX.toNat + 1 ∧
      Emitted s t (.prgaStep s.IDX.toNat i.toNat j.toNat (getS t.S i) (getS t.S j) x.toNat z p (p ^^^ z)
        (sPrefix t.S n)) ∧
      (s.IDX.toNat + 1 < s.PLEN.toNat → t.IDX.toNat = s.IDX.toNat + 1 ∧ t.PHASE = s.PHASE) ∧
      (s.IDX.toNat + 1 = s.PLEN.toNat → t.IDX = s.IDX ∧ t.PHASE = 0x14) ∧
      t.REC = s.REC ∧ t.QN = s.QN ∧ SameOperands s t ∧ SameArx s t ∧ SamePac s t ∧ SameRun s t

/-- R155 and `finish` (R131), for `U_SPC_VERIFY`. -/
def Obligations.SpcVerifyRecoversAndFinishes : Prop :=
  ∀ (s : State) (out ks pt : List Byte), s.PLEN.toNat ≤ Config.PT_MAX →
    out.length = s.PLEN.toNat → ks.length = s.PLEN.toNat → pt.length = s.PLEN.toNat →
    s.OUT.holds out → s.KS.holds ks → s.PT.holds pt →
    ∃ (t : State) (recovered : List Byte) (ok : Bool), exec .uSpcVerify s = .next t ∧
      recovered.length = s.PLEN.toNat ∧
      (∀ k, k < s.PLEN.toNat → recovered[k]? = some (out.getD k 0 ^^^ ks.getD k 0)) ∧
      StoredAll s.REC t.REC recovered ∧ (ok = true ↔ recovered = pt) ∧ t.VERIFY_OK = ok ∧
      Emitted s t (.spcVerify recovered ok) ∧ t.PHASE = 0xF0 ∧ t.STATUS = .done ∧
      t.CMD = s.CMD ∧ t.ERR = s.ERR ∧ t.IDX = s.IDX ∧ t.QN = s.QN ∧ t.OLEN = s.OLEN ∧ t.KSLEN = s.KSLEN ∧
      t.KS = s.KS ∧ t.OUT = s.OUT ∧ t.inputs = s.inputs ∧ t.returned = s.returned ∧
      SameOperands s t ∧ SameSpc s t ∧ SameArx s t ∧ SamePac s t

/-- R160: in a state that meets the invariant the in-run check of `U_SPC_VERIFY` succeeds. -/
def Obligations.InRunCheckAlwaysSucceeds : Prop :=
  ∀ s t : State, Inv s → s.PHASE = P_SPC_VERIFY → exec .uSpcVerify s = .next t →
    t.VERIFY_OK = true ∧ ∀ k, k < s.PLEN.toNat → t.REC.read k = s.PT.read k

/-- R38: `U_SPC_INIT` makes `S[0..N−1]` a permutation and `U_KSA_STEP` and `U_PRGA_STEP` keep it one, in every state
whose N is a validated stateSize. -/
def Obligations.SpcStepsKeepThePermutation : Prop :=
  ∀ (s t : State) (n : Nat), s.N.toNat = n → 1 ≤ n → n ≤ 256 →
    (exec .uSpcInit s = .next t → isPermutation t.S n) ∧
    (isPermutation s.S n → s.IDX.toNat < n → exec .uKsaStep s = .next t → isPermutation t.S n) ∧
    (isPermutation s.S n → exec .uPrgaStep s = .next t → isPermutation t.S n)

/-- R158: the state of the generator and its keystream do not depend on the plaintext. Two states that agree on the
generator go to states that agree on it, whatever text each holds. -/
def Obligations.KeystreamDoesNotDependOnTheText : Prop :=
  ∀ s s' t t' : State, s'.N = s.N → s'.IDX = s.IDX → SameSpc s s' →
    exec .uPrgaStep s = .next t → exec .uPrgaStep s' = .next t' →
    SameSpc t t' ∧ t'.KS.read s.IDX.toNat = t.KS.read s.IDX.toNat

/-! ## The ARX engine -/

/-- R183 with R77 and R182, for `U_ARX_INIT`: `K` is the padded key, `M` the padded nonce. -/
def Obligations.ArxInitBuildsTheMatrix : Prop :=
  ∀ (s : State) (K M : Nat → Byte),
    (∀ x, x < 32 → if x < s.KLEN.toNat then s.KEY.read x = some (K x) else K x = 0) →
    (∀ x, x < 12 → if x < s.NLEN.toNat then s.NONCE.read x = some (M x) else M x = 0) →
    ∃ t, exec .uArxInit s = .next t ∧
      t.MI[0] = 0x61707865 ∧ t.MI[1] = 0x3320646e ∧ t.MI[2] = 0x79622d32 ∧ t.MI[3] = 0x6b206574 ∧
      (∀ (m : Nat) (h : m < 8), (t.MI[4 + m]'(by omega)).toNat = (K (4 * m)).toNat + 2 ^ 8 * (K (4 * m + 1)).toNat +
        2 ^ 16 * (K (4 * m + 2)).toNat + 2 ^ 24 * (K (4 * m + 3)).toNat) ∧
      t.MI[12] = 1 ∧
      (∀ (m : Nat) (h : m < 3), (t.MI[13 + m]'(by omega)).toNat = (M (4 * m)).toNat + 2 ^ 8 * (M (4 * m + 1)).toNat +
        2 ^ 16 * (M (4 * m + 2)).toNat + 2 ^ 24 * (M (4 * m + 3)).toNat) ∧
      Emitted s t (.arxInit t.MI) ∧ t.PHASE = 0x21 ∧
      t.MW = s.MW ∧ t.BLOCK = s.BLOCK ∧ t.IDX = s.IDX ∧ t.QN = s.QN ∧
      SameOperands s t ∧ SameSpc s t ∧ SamePac s t ∧ SameOutput s t ∧ SameRun s t

/-- R186, for `U_ARX_COPY`, in every state. -/
def Obligations.ArxCopyCopiesTheMatrix : Prop :=
  ∀ s : State, ∃ t, exec .uArxCopy s = .next t ∧ t.MW = s.MI ∧ t.QN = 0 ∧ t.PHASE = 0x22 ∧
    t.MI = s.MI ∧ t.BLOCK = s.BLOCK ∧ t.IDX = s.IDX ∧
    SameOperands s t ∧ SameSpc s t ∧ SamePac s t ∧ SameOutput s t ∧ SameTrace s t ∧ SameRun s t

/-- The index groups by slot (R185). -/
def Sys2Proof.Machine.groupTable : List (Nat × Fin 16 × Fin 16 × Fin 16 × Fin 16) :=
  [(0, 0, 4, 8, 12), (1, 1, 5, 9, 13), (2, 2, 6, 10, 14), (3, 3, 7, 11, 15),
   (4, 0, 5, 10, 15), (5, 1, 6, 11, 12), (6, 2, 7, 8, 13), (7, 3, 4, 9, 14)]

/-- The twelve statements of the quarter-round (R184), as the equations between the values they assign. -/
structure Sys2Proof.Machine.QuarterRoundSteps (a b c d : Word) (v : Vector Word 12) : Prop where
  s0 : v[0] = a + b
  s1 : v[1] = d ^^^ v[0]
  s2 : v[2] = v[1].rotateLeft 16
  s3 : v[3] = c + v[2]
  s4 : v[4] = b ^^^ v[3]
  s5 : v[5] = v[4].rotateLeft 12
  s6 : v[6] = v[0] + v[5]
  s7 : v[7] = v[2] ^^^ v[6]
  s8 : v[8] = v[7].rotateLeft 8
  s9 : v[9] = v[3] + v[8]
  s10 : v[10] = v[5] ^^^ v[9]
  s11 : v[11] = v[10].rotateLeft 7

/-- R187 with R184, R185, R100, for `U_ARX_QR`, in every state. -/
def Obligations.ArxQuarterRoundOnItsGroup : Prop :=
  ∀ (s : State) (a b c d : Fin 16), (s.QN.toNat % 8, a, b, c, d) ∈ groupTable →
    ∃ (t : State) (v : Vector Word 12), exec .uArxQr s = .next t ∧
      QuarterRoundSteps s.MW[a] s.MW[b] s.MW[c] s.MW[d] v ∧
      t.MW[a] = v[6] ∧ t.MW[b] = v[11] ∧ t.MW[c] = v[9] ∧ t.MW[d] = v[8] ∧
      (∀ x : Fin 16, x ≠ a → x ≠ b → x ≠ c → x ≠ d → t.MW[x] = s.MW[x]) ∧
      Emitted s t (.arxQr s.QN.toNat a.val b.val c.val d.val s.MW[a] s.MW[b] s.MW[c] s.MW[d] v
        v[6] v[11] v[9] v[8] t.MW) ∧
      (s.QN.toNat < 79 → t.QN.toNat = s.QN.toNat + 1 ∧ t.PHASE = s.PHASE) ∧
      (79 ≤ s.QN.toNat → t.QN = s.QN ∧ t.PHASE = 0x23) ∧
      t.MI = s.MI ∧ t.BLOCK = s.BLOCK ∧ t.IDX = s.IDX ∧
      SameOperands s t ∧ SameSpc s t ∧ SamePac s t ∧ SameOutput s t ∧ SameRun s t

/-- R189 with R64, for `U_ARX_FINAL`, in every state. -/
def Obligations.ArxFinalSerializesTheSums : Prop :=
  ∀ s : State, ∃ (t : State) (sum : Vector Word 16) (block : List Byte), exec .uArxFinal s = .next t ∧
    (∀ x : Fin 16, sum[x].toNat = (s.MW[x].toNat + s.MI[x].toNat) % 2 ^ 32) ∧
    block.length = 64 ∧
    (∀ (x : Fin 16) (b : Fin 4), block[4 * x.val + b.val]? = some (sum[x].extractLsb' (8 * b.val) 8)) ∧
    StoredAll s.BLOCK t.BLOCK block ∧
    Emitted s t (.arxFinal s.MW sum block) ∧ t.IDX = 0 ∧ t.PHASE = 0x24 ∧
    t.MI = s.MI ∧ t.MW = s.MW ∧ t.QN = s.QN ∧
    SameOperands s t ∧ SameSpc s t ∧ SamePac s t ∧ SameOutput s t ∧ SameRun s t

/-- R190 and `finish` (R131), for `U_ARX_XOR`, with the operand ranges the rule gives. -/
def Obligations.ArxXorEncryptsOneByte : Prop :=
  ∀ (s : State) (p z : Byte), s.IDX.toNat < s.PLEN.toNat → s.PLEN.toNat ≤ Config.PT_MAX →
    s.PT.read s.IDX.toNat = some p → s.BLOCK.read (s.IDX.toNat % 64) = some z →
    ∃ t, exec .uArxXor s = .next t ∧
      Stored s.KS t.KS s.IDX.toNat z ∧ Stored s.OUT t.OUT s.IDX.toNat (p ^^^ z) ∧
      t.KSLEN.toNat = s.IDX.toNat + 1 ∧ t.OLEN.toNat = s.IDX.toNat + 1 ∧
      Emitted s t (.arxXor s.IDX.toNat (s.IDX.toNat % 64) p z (p ^^^ z)) ∧
      (s.IDX.toNat + 1 < s.PLEN.toNat → t.IDX.toNat = s.IDX.toNat + 1 ∧ t.PHASE = s.PHASE ∧ t.STATUS = s.STATUS) ∧
      (s.IDX.toNat + 1 = s.PLEN.toNat → t.IDX = s.IDX ∧ t.PHASE = 0xF0 ∧ t.STATUS = .done) ∧
      t.CMD = s.CMD ∧ t.ERR = s.ERR ∧ t.VERIFY_OK = s.VERIFY_OK ∧ t.REC = s.REC ∧ t.QN = s.QN ∧
      t.inputs = s.inputs ∧ t.returned = s.returned ∧
      SameOperands s t ∧ SameSpc s t ∧ SameArx s t ∧ SamePac s t

/-- R188: two quarter-rounds of one pass (slots 0 to 3, or slots 4 to 7) may be applied in either order. -/
def Obligations.QuarterRoundsOfOnePassCommute : Prop :=
  ∀ (M : Vector Word 16) (x y : Fin 8), x.val / 4 = y.val / 4 → x ≠ y →
    quarterRoundAt (quarterRoundAt M (group x)) (group y) = quarterRoundAt (quarterRoundAt M (group y)) (group x)

/-- R198: a key and the same key followed by zero bytes up to 32 bytes give the same matrix, and so do a nonce and the
same nonce followed by zero bytes up to 12 bytes. -/
def Obligations.ZeroPaddingGivesTheSameMatrix : Prop :=
  ∀ (s s' t t' : State) (key nonce : List Byte) (a b : Nat), key.length + a ≤ 32 → nonce.length + b ≤ 12 →
    s.KLEN.toNat = key.length → s.KEY.holds key →
    s'.KLEN.toNat = key.length + a → s'.KEY.holds (key ++ List.replicate a 0) →
    s.NLEN.toNat = nonce.length → s.NONCE.holds nonce →
    s'.NLEN.toNat = nonce.length + b → s'.NONCE.holds (nonce ++ List.replicate b 0) →
    exec .uArxInit s = .next t → exec .uArxInit s' = .next t' → t'.MI = t.MI

/-! ## The PAC engine -/

/-- R222 with R231 and R256, for `U_PAC_CLEAN`. -/
def Obligations.PacCleanKeepsTheLettersOfTheKey : Prop :=
  ∀ (s : State) (key : List Byte), s.KLEN.toNat = key.length → s.KLEN.toNat ≤ Config.KEY_MAX → s.KEY.holds key →
    (cleanKey key ≠ [] →
      ∃ t, exec .uPacClean s = .next t ∧ t.CLEN.toNat = (cleanKey key).length ∧
        StoredAll s.CKEY t.CKEY (cleanKey key) ∧ Emitted s t (.pacClean (cleanKey key)) ∧
        t.CUR = 0 ∧ t.IDX = 0 ∧ t.PHASE = 0x31 ∧ t.QN = s.QN ∧
        SameOperands s t ∧ SameSpc s t ∧ SameArx s t ∧ SameOutput s t ∧ SameRun s t) ∧
    (∀ pt : List Byte, cleanKey key = [] → s.PLEN.toNat = pt.length → s.PLEN.toNat ≤ Config.PT_MAX → s.PT.holds pt →
      ∃ t, exec .uPacClean s = .next t ∧ t.CLEN = 0 ∧ t.CKEY = s.CKEY ∧ Emitted s t (.pacClean []) ∧
        StoredAll s.OUT t.OUT pt ∧ t.OLEN = s.PLEN ∧ t.ERR = .invalidKey ∧ t.PHASE = 0xF1 ∧ t.STATUS = .error ∧
        t.CMD = s.CMD ∧ t.CUR = s.CUR ∧ t.IDX = s.IDX ∧ t.QN = s.QN ∧ t.VERIFY_OK = s.VERIFY_OK ∧
        t.KSLEN = s.KSLEN ∧ t.KS = s.KS ∧ t.REC = s.REC ∧ t.inputs = s.inputs ∧ t.returned = s.returned ∧
        SameOperands s t ∧ SameSpc s t ∧ SameArx s t)

/-- What `U_PAC_CHAR` does after the character itself, whatever its class: the loop of R223 with `finish` (R131), and
what it leaves. -/
structure Sys2Proof.Machine.PacCharLoops (s t : State) : Prop where
  more : s.IDX.toNat + 1 < s.PLEN.toNat → t.IDX.toNat = s.IDX.toNat + 1 ∧ t.PHASE = s.PHASE ∧ t.STATUS = s.STATUS
  last : s.IDX.toNat + 1 = s.PLEN.toNat → t.IDX = s.IDX ∧ t.PHASE = 0xF0 ∧ t.STATUS = .done
  CMD : t.CMD = s.CMD
  ERR : t.ERR = s.ERR
  VERIFY_OK : t.VERIFY_OK = s.VERIFY_OK
  QN : t.QN = s.QN
  KSLEN : t.KSLEN = s.KSLEN
  KS : t.KS = s.KS
  REC : t.REC = s.REC
  CKEY : t.CKEY = s.CKEY
  CLEN : t.CLEN = s.CLEN
  inputs : t.inputs = s.inputs
  returned : t.returned = s.returned
  operands : SameOperands s t
  spc : SameSpc s t
  arx : SameArx s t

/-- R223 with R224, R225, R226, for `U_PAC_CHAR`, with the operand ranges of the rules: a letter is shifted by the key
letter, in its own case, and moves the cursor; a non-letter is kept or dropped and does not. -/
def Obligations.PacCharShiftsLettersOnly : Prop :=
  ∀ (s : State) (c : Byte), s.IDX.toNat < s.PLEN.toNat → s.PLEN.toNat ≤ Config.PT_MAX →
    s.OLEN.toNat ≤ s.IDX.toNat → s.CUR.toNat ≤ s.IDX.toNat → s.PT.read s.IDX.toNat = some c →
    (∀ kl : Byte, isLetter c = true → s.CLEN ≠ 0 → s.CKEY.read (s.CUR.toNat % s.CLEN.toNat) = some kl →
      isUpper kl = true →
      ∃ (t : State) (p kpos q : Nat) (o : Byte), exec .uPacChar s = .next t ∧
        p = (upper c).toNat - 0x41 ∧ kpos = kl.toNat - 0x41 ∧
        (q : Int) = (if s.CMD.getLsbD 4 = false then (p : Int) + kpos else p - kpos + 26) % 26 ∧
        o.toNat = 0x41 + q + (if isLower c = true then 0x20 else 0) ∧
        Stored s.OUT t.OUT s.OLEN.toNat o ∧ t.OLEN.toNat = s.OLEN.toNat + 1 ∧ t.CUR.toNat = s.CUR.toNat + 1 ∧
        Emitted s t (.pacChar s.IDX.toNat c (.letter (isLower c) p s.CUR.toNat (s.CUR.toNat % s.CLEN.toNat) kl kpos q o)) ∧
        PacCharLoops s t) ∧
    (isLetter c = false → s.CMD.getLsbD 5 = true →
      ∃ t, exec .uPacChar s = .next t ∧ Stored s.OUT t.OUT s.OLEN.toNat c ∧ t.OLEN.toNat = s.OLEN.toNat + 1 ∧
        t.CUR = s.CUR ∧ Emitted s t (.pacChar s.IDX.toNat c .kept) ∧ PacCharLoops s t) ∧
    (isLetter c = false → s.CMD.getLsbD 5 = false →
      ∃ t, exec .uPacChar s = .next t ∧ t.OUT = s.OUT ∧ t.OLEN = s.OLEN ∧
        t.CUR = s.CUR ∧ Emitted s t (.pacChar s.IDX.toNat c .dropped) ∧ PacCharLoops s t)

/-! ## The moves of the host -/

/-- R121: a write of a request register or of an element of a request buffer changes that location only; for an element
outside its buffer the host has no move. That such a move is refused is the model's choice (assumption 2). -/
def Obligations.HostWritesOneLocation : Prop :=
  ∀ s : State, s.STATUS ≠ .busy →
    (∀ v, hostMove (.writeReg .N v) s = .next { s with N := v }) ∧
    (∀ v, hostMove (.writeReg .PLEN v) s = .next { s with PLEN := v }) ∧
    (∀ v, hostMove (.writeReg .KLEN v) s = .next { s with KLEN := v }) ∧
    (∀ v, hostMove (.writeReg .NLEN v) s = .next { s with NLEN := v }) ∧
    (∀ k v, k < Config.PT_MAX →
      ∃ m, hostMove (.writeElem .PT k v) s = .next { s with PT := m } ∧ Stored s.PT m k v) ∧
    (∀ k v, k < Config.KEY_MAX →
      ∃ m, hostMove (.writeElem .KEY k v) s = .next { s with KEY := m } ∧ Stored s.KEY m k v) ∧
    (∀ k v, k < 12 →
      ∃ m, hostMove (.writeElem .NONCE k v) s = .next { s with NONCE := m } ∧ Stored s.NONCE m k v) ∧
    (∀ k v, Config.PT_MAX ≤ k → hostMove (.writeElem .PT k v) s = .refused .noSuchHostMove) ∧
    (∀ k v, Config.KEY_MAX ≤ k → hostMove (.writeElem .KEY k v) s = .refused .noSuchHostMove) ∧
    (∀ k v, 12 ≤ k → hostMove (.writeElem .NONCE k v) s = .refused .noSuchHostMove)

/-- The value of each register as the host reads it, with the codes of R102. -/
def Sys2Proof.Machine.registerValue (s : State) : ReadReg → Nat
  | .CMD => s.CMD.toNat
  | .N => s.N.toNat
  | .PLEN => s.PLEN.toNat
  | .KLEN => s.KLEN.toNat
  | .NLEN => s.NLEN.toNat
  | .STATUS => (match s.STATUS with | .idle => 0 | .busy => 1 | .done => 2 | .error => 3)
  | .ERR => (match s.ERR with
      | .noError => 0 | .invalidParameter => 1 | .emptyInput => 2 | .invalidKey => 3 | .illegalCommand => 4)
  | .VERIFY_OK => if s.VERIFY_OK = true then 1 else 0
  | .OLEN => s.OLEN.toNat
  | .KSLEN => s.KSLEN.toNat
  | .TLEN => s.TLEN.toNat

/-- R123, R69, R102: with no run in progress the host reads every register of the list and every valid element; the
read returns the value and changes nothing of CORE; a read of an element that is not valid or not in its buffer is no
move of the host, and one of a request element without a value is refused (R283). The list of values read, the words
their codes become, and that such reads are refused are the model's choice (assumptions 2, 5, 10). -/
def Obligations.HostReadsValidElementsOnly : Prop :=
  ∀ s : State, s.STATUS ≠ .busy →
    (∀ r, ∃ v : Word, v.toNat = registerValue s r ∧
      hostMove (.read (.reg r)) s = .next { s with returned := s.returned ++ [.reg v] }) ∧
    (∀ b k v, (s.buf b).read k = some v →
      (b = .OUT ∧ k < s.OLEN.toNat) ∨ (b = .KS ∧ k < s.KSLEN.toNat) ∨
        (b = .REC ∧ k < s.KSLEN.toNat ∧ s.STATUS = .done ∧ cmdOp s.CMD = 1) ∨
        (b = .BLOCK ∧ k < 64 ∧ s.STATUS = .done ∧ cmdOp s.CMD = 2) ∨
        (b = .PT ∧ k < Config.PT_MAX) ∨ (b = .KEY ∧ k < Config.KEY_MAX) ∨ (b = .NONCE ∧ k < 12) →
      hostMove (.read (.elem b k)) s = .next { s with returned := s.returned ++ [.byte v] }) ∧
    (∀ k r, k < s.TLEN.toNat → s.TRACE.read k = some r →
      hostMove (.read (.record k)) s = .next { s with returned := s.returned ++ [.record r] }) ∧
    (∀ b k, NotReadable s k b → hostMove (.read (.elem b k)) s = .refused .noSuchHostMove) ∧
    (∀ b k, b ∈ [ByteBuf.PT, .KEY, .NONCE] → ¬ NotReadable s k b → (s.buf b).read k = none →
      hostMove (.read (.elem b k)) s = .refused (.requestUnwritten b)) ∧
    (∀ k, s.TLEN.toNat ≤ k → hostMove (.read (.record k)) s = .refused .noSuchHostMove)

/-- R124, R284, R51: during a run a host that waits makes no move, and its move is still pending after the step unless
the run stops; an access of a host that does not wait has no meaning, but for a read of `STATUS` or `ERR` (the two kinds
of host are the model's choice, assumption 2). -/
def Obligations.HostHasNoMoveDuringARun : Prop :=
  ∀ (s : State) (m : HostMove) (rest : List Input), s.STATUS = .busy →
    (s.inputs = .host m :: rest → ∀ t, step s = .next t → t.inputs = .host m :: rest ∧ t.returned = s.returned ∧
      SameOperands s t ∧ t.CMD = s.CMD) ∧
    (s.inputs = .hostNow m :: rest →
      (m = .read (.reg .STATUS) → step s = .next { s with inputs := rest, returned := s.returned ++ [.reg 1] }) ∧
      (m = .read (.reg .ERR) → ∃ v : Word, v.toNat = registerValue s .ERR ∧
        step s = .next { s with inputs := rest, returned := s.returned ++ [.reg v] }) ∧
      (m ≠ .read (.reg .STATUS) → m ≠ .read (.reg .ERR) → step s = .refused .hostMoveWhileBusy))

/-! ## Rules about all micro-operations -/

/-- R134: no micro-operation changes `CMD` or what the host loaded. -/
def Obligations.MicroOperationsLeaveTheRequest : Prop :=
  ∀ (i : Instr) (c : BitVec 8) (s t : State), encode i = .uop c → exec i s = .next t →
    t.CMD = s.CMD ∧ SameOperands s t

/-- R3: a micro-operation of one engine leaves the working state of the two others. -/
def Obligations.EnginesShareNoWorkingState : Prop :=
  ∀ (i : Instr) (s t : State), exec i s = .next t →
    (i ∈ [.uSpcInit, .uKsaStep, .uPrgaInit, .uPrgaStep, .uSpcVerify] → SameArx s t ∧ SamePac s t) ∧
    (i ∈ [.uArxInit, .uArxCopy, .uArxQr, .uArxFinal, .uArxXor] → SameSpc s t ∧ SamePac s t) ∧
    (i ∈ [.uPacClean, .uPacChar] → SameSpc s t ∧ SameArx s t)

/-- R14, R103: a micro-operation changes or removes no record emitted before it; four emit nothing, and each other emits
one record, whose kind tag is the `PHASE` code of that micro-operation. -/
def Obligations.TraceRecordsNeverChange : Prop :=
  ∀ (i : Instr) (c : BitVec 8) (s t : State), encode i = .uop c → exec i s = .next t →
    (i ∈ [.uValidate, .uSpcInit, .uPrgaInit, .uArxCopy] → SameTrace s t) ∧
    (i ∉ [.uValidate, .uSpcInit, .uPrgaInit, .uArxCopy] → ∃ r, Emitted s t r ∧ r.tag = c)

/-- R131, R256, R260: a micro-operation that ends the run with DONE is `U_SPC_VERIFY`, `U_ARX_XOR` or `U_PAC_CHAR` and
leaves `ERR`; one that ends it with ERROR is `U_VALIDATE` or `U_PAC_CLEAN` and sets `ERR` to an error kind it may
raise. -/
def Obligations.OnlyTheseMicroOperationsEndARun : Prop :=
  ∀ (i : Instr) (c : BitVec 8) (s t : State), encode i = .uop c → s.STATUS = .busy → exec i s = .next t →
    t.STATUS = .busy ∨
    (t.STATUS = .done ∧ t.PHASE = P_DONE ∧ t.ERR = s.ERR ∧ i ∈ [.uSpcVerify, .uArxXor, .uPacChar]) ∨
    (t.STATUS = .error ∧ t.PHASE = P_ERROR ∧
      ((i = .uValidate ∧ t.ERR ∈ [.illegalCommand, .emptyInput, .invalidParameter]) ∨
       (i = .uPacClean ∧ t.ERR = .invalidKey)))

/-- The rows of the transition table (R125), as pairs of phases. -/
def Sys2Proof.Machine.transitionTable : List (BitVec 8 × BitVec 8) :=
  [(P_VALIDATE, P_ERROR), (P_VALIDATE, P_SPC_INIT), (P_VALIDATE, P_ARX_INIT), (P_VALIDATE, P_PAC_CLEAN),
   (P_SPC_INIT, P_KSA), (P_KSA, P_KSA), (P_KSA, P_PRGA_INIT), (P_PRGA_INIT, P_PRGA), (P_PRGA, P_PRGA),
   (P_PRGA, P_SPC_VERIFY), (P_SPC_VERIFY, P_DONE),
   (P_ARX_INIT, P_ARX_COPY), (P_ARX_COPY, P_ARX_QR), (P_ARX_QR, P_ARX_QR), (P_ARX_QR, P_ARX_FINAL),
   (P_ARX_FINAL, P_ARX_XOR), (P_ARX_XOR, P_ARX_XOR), (P_ARX_XOR, P_DONE),
   (P_PAC_CLEAN, P_ERROR), (P_PAC_CLEAN, P_PAC_CHAR), (P_PAC_CHAR, P_PAC_CHAR), (P_PAC_CHAR, P_DONE)]

/-- R125: the sequencer makes no transition but those of the table, and each of the loops takes the row its counter
says. -/
def Obligations.SequencerFollowsTheTransitionTable : Prop :=
  ∀ s t : State, sequencerMove s = .next t →
    (s.PHASE, t.PHASE) ∈ transitionTable ∧
    (s.PHASE = P_KSA → (t.PHASE = P_KSA ↔ s.IDX.toNat + 1 < s.N.toNat)) ∧
    (s.PHASE = P_PRGA → (t.PHASE = P_PRGA ↔ s.IDX.toNat + 1 < s.PLEN.toNat)) ∧
    (s.PHASE = P_ARX_QR → (t.PHASE = P_ARX_QR ↔ s.QN.toNat < 79)) ∧
    (s.PHASE = P_ARX_XOR → (t.PHASE = P_ARX_XOR ↔ s.IDX.toNat + 1 < s.PLEN.toNat)) ∧
    (s.PHASE = P_PAC_CLEAN → (t.PHASE = P_ERROR ↔ t.CLEN = 0)) ∧
    (s.PHASE = P_PAC_CHAR → (t.PHASE = P_PAC_CHAR ↔ s.IDX.toNat + 1 < s.PLEN.toNat))

/-! ## Whole runs -/

/-- What the end of a run of k sequencer steps from u is: at no step before it is the run over, and then the state is
t. -/
def Sys2Proof.Machine.EndsAfter (k : Nat) (u t : State) : Prop :=
  steps k u = .next t ∧ t.STATUS ≠ .busy ∧ ∀ m, m < k → ∃ v, steps m u = .next v ∧ v.STATUS = .busy

/-- R128, R150, R157, R290: RUN_SPC, started in any state at rest, computes the function of R150 of text, key and
stateSize, records the trace of R157 and ends after N + `PLEN` + 4 sequencer steps. -/
def Obligations.RunSpcComputesItsFunction : Prop :=
  ∀ (s : State) (pt key : List Byte) (n : Nat), s.STATUS ≠ .busy → s.undisturbed = true → Loaded s pt key →
    pt ≠ [] → key ≠ [] → pt.length ≤ Config.PT_MAX → key.length ≤ Config.KEY_MAX →
    s.N.toNat = n → 1 ≤ n → n ≤ 256 →
    ∃ u t, exec (.runSpc true) s = .next u ∧ EndsAfter (n + pt.length + 4) u t ∧
      t.STATUS = .done ∧ t.ERR = .noError ∧ t.VERIFY_OK = true ∧
      t.KSLEN = s.PLEN ∧ t.OLEN = s.PLEN ∧ t.KS.holds (spcKeystream key n pt.length) ∧
      t.OUT.holds (spcOutput pt key n) ∧ t.REC.holds pt ∧
      (n + pt.length + 1 < 2 ^ 32 →
        t.TLEN.toNat = n + pt.length + 1 ∧ t.TRACE.holds (spcTrace pt key n)) ∧
      t.CMD = 0x00000041 ∧ SameOperands s t

/-- R129, R180, R192, R290: RUN_ARX, started in any state at rest, computes the function of R180 of text, key and nonce,
records the trace of R192 and ends after `PLEN` + 84 sequencer steps. -/
def Obligations.RunArxComputesItsFunction : Prop :=
  ∀ (s : State) (pt key nonce : List Byte), s.STATUS ≠ .busy → s.undisturbed = true → Loaded s pt key →
    LoadedNonce s nonce → pt ≠ [] → key ≠ [] → pt.length ≤ Config.PT_MAX → key.length ≤ 32 → nonce.length ≤ 12 →
    ∃ u t, exec .runArx s = .next u ∧ EndsAfter (pt.length + 84) u t ∧
      t.STATUS = .done ∧ t.ERR = .noError ∧ t.VERIFY_OK = false ∧ t.REC = s.REC ∧
      t.KSLEN = s.PLEN ∧ t.OLEN = s.PLEN ∧ t.BLOCK.holds (arxBlock key nonce) ∧
      t.KS.holds (arxKeystream key nonce pt.length) ∧ t.OUT.holds (arxOutput pt key nonce) ∧
      (pt.length + 82 < 2 ^ 32 →
        t.TLEN.toNat = pt.length + 82 ∧ t.TRACE.holds (arxTrace pt key nonce)) ∧
      t.CMD = 0x00000002 ∧ SameOperands s t

/-- R130, R220, R227, R290: RUN_PAC with a key that holds a letter, started in any state at rest, computes the function
of R220 of text, key, mode and preserve flag, records the trace of R227 and ends after `PLEN` + 2 sequencer steps. -/
def Obligations.RunPacComputesItsFunction : Prop :=
  ∀ (s : State) (pt key : List Byte) (mode : PacMode) (preserve : Bool), s.STATUS ≠ .busy → s.undisturbed = true →
    Loaded s pt key → pt ≠ [] → cleanKey key ≠ [] → pt.length ≤ Config.PT_MAX → key.length ≤ Config.KEY_MAX →
    ∃ u t, exec (.runPac mode preserve) s = .next u ∧ EndsAfter (pt.length + 2) u t ∧
      t.STATUS = .done ∧ t.ERR = .noError ∧ t.VERIFY_OK = false ∧ t.KSLEN = 0 ∧
      t.OLEN.toNat = (pacOutput mode preserve pt key).length ∧ t.OUT.holds (pacOutput mode preserve pt key) ∧
      t.CUR.toNat = (pt.filter isLetter).length ∧
      (pt.length + 1 < 2 ^ 32 →
        t.TLEN.toNat = pt.length + 1 ∧ t.TRACE.holds (pacTrace mode preserve pt key)) ∧
      SameOperands s t

/-- R231, R232, R253, R290: RUN_PAC with a key that is not empty and holds no letter ends after two sequencer steps with
`InvalidKey` and the text copied to the output, whatever the mode and the preserve flag. -/
def Obligations.RunPacWithoutKeyLetterFallsBack : Prop :=
  ∀ (s : State) (pt key : List Byte) (mode : PacMode) (preserve : Bool), s.STATUS ≠ .busy → s.undisturbed = true →
    Loaded s pt key → pt ≠ [] → key ≠ [] → cleanKey key = [] → pt.length ≤ Config.PT_MAX →
    key.length ≤ Config.KEY_MAX →
    ∃ u t, exec (.runPac mode preserve) s = .next u ∧ EndsAfter 2 u t ∧
      t.STATUS = .error ∧ t.ERR = .invalidKey ∧ t.VERIFY_OK = false ∧ t.OUT.holds pt ∧ t.OLEN = s.PLEN ∧ t.KSLEN = 0 ∧
      t.TLEN = 1 ∧
      t.TRACE.read 0 = some (.pacClean []) ∧ t.CUR = s.CUR ∧ SameOperands s t

/-- R255, R257, R290: a run that `U_VALIDATE` ends with an error ends after one sequencer step, with the first error
kind in the order of R255, no output and no trace; nothing but the registers R257 lists differs from the state before
the command, but for the model's count of free values, which starts again (assumption 6). -/
def Obligations.ValidationErrorsArePrecise : Prop :=
  ∀ (s : State) (w : Word) (rest : List Input) (k : ErrKind), s.STATUS ≠ .busy →
    s.inputs = .host (.start w) :: rest → State.undisturbed { s with inputs := rest } = true →
    ((legalCommand w = false ∧ k = .illegalCommand) ∨
     (legalCommand w = true ∧ AdmittedRequest { s with CMD := w } ∧ WrittenRequest { s with CMD := w } ∧
       (s.PLEN = 0 ∨ s.KLEN = 0) ∧ k = .emptyInput) ∨
     (legalCommand w = true ∧ AdmittedRequest { s with CMD := w } ∧ WrittenRequest { s with CMD := w } ∧
       s.PLEN ≠ 0 ∧ s.KLEN ≠ 0 ∧ cmdOp w = 1 ∧ (cmdNv w = false ∨ s.N.toInt ≤ 0) ∧ k = .invalidParameter)) →
    steps 2 s = .next
      { s with
        CMD := w, STATUS := .error, ERR := k, PHASE := P_ERROR, VERIFY_OK := false, OLEN := 0, KSLEN := 0, TLEN := 0,
        inputs := rest, draws := 0 }

/-- R132, R291, R258: from every state of a run in progress that meets the invariant, with its request admitted and
written (R283) and undisturbed, the run ends after finitely many steps, with DONE and no error kind or with ERROR and
one. Only `U_VALIDATE` needs the two premises on the request: in every later phase the invariant holds them. -/
def Obligations.EveryAdmittedRunEnds : Prop :=
  ∀ s : State, Inv s → s.STATUS = .busy → s.undisturbed = true →
    (s.PHASE = P_VALIDATE → legalCommand s.CMD = true → AdmittedRequest s ∧ WrittenRequest s) →
    ∃ k t, EndsAfter k s t ∧
      ((t.STATUS = .done ∧ t.ERR = .noError) ∨ (t.STATUS = .error ∧ t.ERR ≠ .noError))

/-- R133, R132: the results of a run, and the number of its steps, depend on the request alone. Where a run of a command
ends, the same command ends after as many steps in every other state at rest that holds the same request, whatever ran
before and whatever else it holds, and with the same results. -/
def Obligations.ResultsDoNotDependOnEarlierRuns : Prop :=
  ∀ (s s' u t : State) (pt key nonce : List Byte) (i : Instr) (w : Word) (k : Nat), encode i = .cmd w →
    s.STATUS ≠ .busy → s'.STATUS ≠ .busy → s.undisturbed = true → s'.undisturbed = true →
    Loaded s pt key → Loaded s' pt key → (i = .runArx → LoadedNonce s nonce ∧ LoadedNonce s' nonce) →
    (i = .runSpc true → s'.N = s.N) →
    exec i s = .next u → EndsAfter k u t →
    ∃ u' t', exec i s' = .next u' ∧ EndsAfter k u' t' ∧
      t'.STATUS = t.STATUS ∧ t'.ERR = t.ERR ∧ t'.VERIFY_OK = t.VERIFY_OK ∧ t'.OLEN = t.OLEN ∧ t'.KSLEN = t.KSLEN ∧
      t'.TLEN = t.TLEN ∧ (∀ x, x < t.OLEN.toNat → t'.OUT.read x = t.OUT.read x) ∧
      (∀ x, x < t.KSLEN.toNat → t'.KS.read x = t.KS.read x) ∧
      (∀ x, x < t.TLEN.toNat → t'.TRACE.read x = t.TRACE.read x) ∧
      (i = .runSpc true → t.STATUS = .done → ∀ x, x < t.KSLEN.toNat → t'.REC.read x = t.REC.read x) ∧
      (i = .runArx → t.STATUS = .done → ∀ x, x < 64 → t'.BLOCK.read x = t.BLOCK.read x)

/-- What the host does to decrypt after a run from s that ended in t (R286): state s' holds as its text the output of
that run, and the key of that run. -/
structure Sys2Proof.Machine.HoldsOutputAsText (s t s' : State) : Prop where
  PLEN : s'.PLEN = t.OLEN
  PT : ∀ x, x < t.OLEN.toNat → s'.PT.read x = t.OUT.read x
  KLEN : s'.KLEN = s.KLEN
  KEY : ∀ x, x < s.KLEN.toNat → s'.KEY.read x = s.KEY.read x

/-- R159, R286: RUN_SPC on a text, key and stateSize ends DONE; and from every state at rest that holds the output of
that run as its text, with the same key and stateSize, a fresh RUN_SPC ends with the same keystream and the text of the
first run as its output. -/
def Obligations.SpcRoundTripByAFreshRun : Prop :=
  ∀ (s : State) (pt key : List Byte) (n : Nat), s.STATUS ≠ .busy → s.undisturbed = true → Loaded s pt key →
    pt ≠ [] → key ≠ [] → pt.length ≤ Config.PT_MAX → key.length ≤ Config.KEY_MAX →
    s.N.toNat = n → 1 ≤ n → n ≤ 256 →
    ∃ u t, exec (.runSpc true) s = .next u ∧ EndsAfter (n + pt.length + 4) u t ∧ t.STATUS = .done ∧
      ∀ s' : State, s'.STATUS ≠ .busy → s'.undisturbed = true → HoldsOutputAsText s t s' → s'.N = s.N →
        ∃ u' t', exec (.runSpc true) s' = .next u' ∧ EndsAfter (n + pt.length + 4) u' t' ∧ t'.STATUS = .done ∧
          t'.OLEN = s.PLEN ∧ t'.OUT.holds pt ∧ ∀ x, x < pt.length → t'.KS.read x = t.KS.read x

/-- R161, R288: every keystream byte lies in 0 to N − 1; so N = 1 gives the text back, and for N ≤ 128 bit 7 of every
byte passes unchanged. -/
def Obligations.SpcKeystreamLiesBelowStateSize : Prop :=
  ∀ (pt key : List Byte) (n : Nat), 1 ≤ n → n ≤ 256 →
    (∀ z ∈ spcKeystream key n pt.length, z.toNat < n) ∧
    (n = 1 → spcOutput pt key n = pt) ∧
    (n ≤ 128 → ∀ k : Nat, ((spcOutput pt key n)[k]?).map BitVec.msb = (pt[k]?).map BitVec.msb)

/-- R196, R191, R286: RUN_ARX on a text, key and nonce ends DONE with keystream and output of period 64 against the
text; and from every state at rest that holds the output of that run as its text, with the same key and nonce, a fresh
RUN_ARX ends with the same keystream and the text of the first run as its output. -/
def Obligations.ArxRoundTripAndBlockReuse : Prop :=
  ∀ (s : State) (pt key nonce : List Byte), s.STATUS ≠ .busy → s.undisturbed = true → Loaded s pt key →
    LoadedNonce s nonce → pt ≠ [] → key ≠ [] → pt.length ≤ Config.PT_MAX → key.length ≤ 32 → nonce.length ≤ 12 →
    ∃ u t, exec .runArx s = .next u ∧ EndsAfter (pt.length + 84) u t ∧ t.STATUS = .done ∧
      (∀ k, k + 64 < pt.length → ∃ z a b c d, t.KS.read k = some z ∧ t.KS.read (k + 64) = t.KS.read k ∧
        t.OUT.read (k + 64) = some a ∧ t.OUT.read k = some b ∧ t.PT.read (k + 64) = some c ∧ t.PT.read k = some d ∧
        a ^^^ b = c ^^^ d) ∧
      ∀ s' : State, s'.STATUS ≠ .busy → s'.undisturbed = true → HoldsOutputAsText s t s' → s'.NLEN = s.NLEN →
        (∀ x, x < s.NLEN.toNat → s'.NONCE.read x = s.NONCE.read x) →
        ∃ u' t', exec .runArx s' = .next u' ∧ EndsAfter (pt.length + 84) u' t' ∧ t'.STATUS = .done ∧
          t'.OLEN = s.PLEN ∧ t'.OUT.holds pt ∧ ∀ x, x < pt.length → t'.KS.read x = t.KS.read x

/-- R228, R229: decrypting an encrypted text that kept its non-letters gives it back; without them, it gives back its
letters. -/
def Obligations.PacRoundTrip : Prop :=
  ∀ pt key : List Byte, cleanKey key ≠ [] →
    pacOutput .decrypt true (pacOutput .encrypt true pt key) key = pt ∧
    (∀ preserve, pacOutput .decrypt preserve (pacOutput .encrypt false pt key) key = pt.filter isLetter) ∧
    (∀ mode, pacOutput mode false pt key = (pacOutput mode true pt key).filter isLetter)

/-- R227: with the preserve flag the output has a letter exactly where the text has one, in the same case, and the byte
of the text elsewhere; without it, as many letters as the text has. -/
def Obligations.PacOutputHasTheShapeOfTheText : Prop :=
  ∀ (mode : PacMode) (pt key : List Byte), cleanKey key ≠ [] →
    (pacOutput mode true pt key).length = pt.length ∧
    (∀ (k : Nat) (c : Byte), pt[k]? = some c → ∃ o, (pacOutput mode true pt key)[k]? = some o ∧
      isLetter o = isLetter c ∧ isLower o = isLower c ∧ (isLetter c = false → o = c)) ∧
    (pacOutput mode false pt key).length = (pt.filter isLetter).length ∧
    (∀ o ∈ pacOutput mode false pt key, isLetter o = true)

/-- R113, R114: from any state at rest, the moves of a textual request that fits the buffers load its operands and start
its command; the request of a pseudo-command is that of the command it expands to. -/
def Obligations.RequestMovesLoadAndStart : Prop :=
  ∀ (s : State) (r : Request) (pt key : List Byte), s.STATUS ≠ .busy → s.inputs = r.moves.map .host →
    pt.length ≤ Config.PT_MAX → key.length ≤ Config.KEY_MAX →
    (∀ n, r = .runSpc pt key n ∨ r = .decSpc pt key n →
      ∃ t, steps r.moves.length s = .next t ∧ t.inputs = [] ∧ t.STATUS = .busy ∧ t.PHASE = P_VALIDATE ∧
        Loaded t pt key ∧ t.N = n.getD s.N ∧ t.CMD = if n.isSome then 0x00000041 else 0x00000001) ∧
    (∀ nonce, r = .runArx pt key nonce ∨ r = .decArx pt key nonce → nonce.length ≤ 12 →
      ∃ t, steps r.moves.length s = .next t ∧ t.inputs = [] ∧ t.STATUS = .busy ∧ t.PHASE = P_VALIDATE ∧
        Loaded t pt key ∧ LoadedNonce t nonce ∧ t.CMD = 0x00000002) ∧
    (∀ mode preserve, r = .runPac pt key mode preserve →
      ∃ t, steps r.moves.length s = .next t ∧ t.inputs = [] ∧ t.STATUS = .busy ∧ t.PHASE = P_VALIDATE ∧
        Loaded t pt key ∧
        t.CMD.toNat = 0x03 + (if mode = .decrypt then 0x10 else 0) + (if preserve = true then 0x20 else 0))

/-! ## More on the step and on `U_VALIDATE` -/

/-- R120, assumption 2: with no run in progress a step is the pending move of the host, whether that host waits or not,
on the state without that input; an input that lets one step pass only leaves the list, and with nothing pending a step
changes nothing. -/
def Obligations.StepAtRestActsOnTheNextInput : Prop :=
  ∀ s : State, s.STATUS ≠ .busy →
    (s.inputs = [] → step s = .next s) ∧
    (∀ m rest, s.inputs = .host m :: rest ∨ s.inputs = .hostNow m :: rest →
      step s = hostMove m { s with inputs := rest }) ∧
    (∀ rest, s.inputs = .pass :: rest → step s = .next { s with inputs := rest })

/-- R283 (U10: "refuse"), for `U_VALIDATE`: a request with a legal command, within the bounds of R127, one of whose
length registers covers an element that has held no value since reset, is refused, for a buffer with such an element.
That the refusal comes at `U_VALIDATE`, before its checks of R126 on the operands, is the model's choice (assumptions 5,
7). -/
def Obligations.ValidateRefusesAnUnwrittenRequest : Prop :=
  ∀ s : State, legalCommand s.CMD = true → AdmittedRequest s → ¬ WrittenRequest s →
    ∃ b k, exec .uValidate s = .refused (.requestUnwritten b) ∧ UnwrittenOperand s b k
end

