-- ==== Sys2Proof/Laws/Memory.lean ====
section
/-! SUPPORT. The laws of a buffer: read after write, canonical form, extent. -/

namespace Sys2Proof.Machine

variable {α : Type}

@[simp] theorem Memory.read_nil (k : Nat) : Memory.read ([] : Memory α) k = none := rfl

@[simp] theorem Memory.read_write_same (m : Memory α) (k : Nat) (v : α) : (Memory.write m k v).read k = some v := by
  induction m with
  | nil => simp [Memory.write, Memory.read]
  | cons p m ih =>
    obtain ⟨a, w⟩ := p
    by_cases h1 : k < a
    · simp [Memory.write, Memory.read, h1]
    · by_cases h2 : k = a
      · simp [Memory.write, Memory.read, h2]
      · have h3 : a ≠ k := fun h => h2 h.symm
        simp [Memory.write, Memory.read, h1, h2, h3, ih]

theorem Memory.read_write_other (m : Memory α) {k x : Nat} (v : α) (h : x ≠ k) :
    (Memory.write m k v).read x = m.read x := by
  induction m with
  | nil => simp [Memory.write, Memory.read, Ne.symm h]
  | cons p m ih =>
    obtain ⟨a, w⟩ := p
    by_cases h1 : k < a
    · simp [Memory.write, Memory.read, h1, Ne.symm h]
    · by_cases h2 : k = a
      · subst h2; simp [Memory.write, Memory.read, Ne.symm h]
      · simp [Memory.write, Memory.read, h1, h2, ih]

/-- Read after write, both cases at once. -/
theorem Memory.read_write (m : Memory α) (k x : Nat) (v : α) :
    (Memory.write m k v).read x = if x = k then some v else m.read x := by
  split
  · next h => subst h; simp
  · next h => exact Memory.read_write_other m v h

theorem Memory.mem_write {m : Memory α} {k : Nat} {v : α} {p : Nat × α} (h : p ∈ Memory.write m k v) :
    p = (k, v) ∨ p ∈ m := by
  induction m with
  | nil => simpa [Memory.write] using h
  | cons q m ih =>
    obtain ⟨a, w⟩ := q
    simp only [Memory.write] at h
    split at h
    · rcases List.mem_cons.mp h with h | h
      · exact .inl h
      · exact .inr h
    · split at h
      · rcases List.mem_cons.mp h with h | h
        · exact .inl h
        · exact .inr (List.mem_cons_of_mem _ h)
      · rcases List.mem_cons.mp h with h | h
        · exact .inr (h ▸ List.mem_cons_self)
        · exact (ih h).imp_right (List.mem_cons_of_mem _)

theorem Memory.write_within {m : Memory α} {k n : Nat} {v : α} (hm : m.within n) (hk : k < n) :
    (Memory.write m k v).within n := by
  intro p hp
  rcases Memory.mem_write hp with rfl | hp
  · exact hk
  · exact hm p hp

/-- A write keeps the canonical form. -/
theorem Memory.write_wf {m : Memory α} (k : Nat) (v : α) (h : m.wf) : (Memory.write m k v).wf := by
  induction m with
  | nil => simp [Memory.write, Memory.wf]
  | cons p m ih =>
    obtain ⟨a, w⟩ := p
    obtain ⟨h1, h2⟩ := List.pairwise_cons.mp h
    simp only [Memory.write]
    split
    · next hk =>
      refine List.pairwise_cons.mpr ⟨fun q hq => ?_, h⟩
      rcases List.mem_cons.mp hq with rfl | hq
      · exact hk
      · exact Nat.lt_trans hk (h1 q hq)
    · split
      · next hk => subst hk; exact List.pairwise_cons.mpr ⟨h1, h2⟩
      · next hlt hne =>
        refine List.pairwise_cons.mpr ⟨fun q hq => ?_, ih h2⟩
        rcases Memory.mem_write hq with rfl | hq
        · show a < k; omega
        · exact h1 q hq

theorem Memory.read_eq_some_of_mem {m : Memory α} (h : m.wf) {k : Nat} {v : α} (hm : (k, v) ∈ m) :
    m.read k = some v := by
  induction m with
  | nil => simp at hm
  | cons p m ih =>
    obtain ⟨a, w⟩ := p
    obtain ⟨h1, h2⟩ := List.pairwise_cons.mp h
    rcases List.mem_cons.mp hm with e | hm
    · obtain ⟨rfl, rfl⟩ := Prod.mk.inj e; simp [Memory.read]
    · have hlt : a < k := h1 _ hm
      simp [Memory.read, Nat.ne_of_lt hlt, ih h2 hm]

theorem Memory.mem_of_read {m : Memory α} {k : Nat} {v : α} (h : m.read k = some v) : (k, v) ∈ m := by
  induction m with
  | nil => simp at h
  | cons p m ih =>
    obtain ⟨a, w⟩ := p
    by_cases ha : a = k
    · subst ha; simp [Memory.read] at h; simp [h]
    · simp [Memory.read, ha] at h; exact List.mem_cons_of_mem _ (ih h)

theorem Memory.lt_of_read {m : Memory α} {k n : Nat} {v : α} (hm : m.within n) (h : m.read k = some v) : k < n :=
  hm _ (Memory.mem_of_read h)

theorem Memory.filledBelow_write {m : Memory α} {n k : Nat} {v : α} (h : m.filledBelow n) :
    (Memory.write m k v).filledBelow n := by
  intro x hx
  rw [Memory.read_write]
  split
  · exact ⟨v, rfl⟩
  · exact h x hx

/-- Writing the element at the end of the filled part extends it. -/
theorem Memory.filledBelow_write_succ {m : Memory α} {n : Nat} {v : α} (h : m.filledBelow n) :
    (Memory.write m n v).filledBelow (n + 1) := by
  intro x hx
  rw [Memory.read_write]
  split
  · exact ⟨v, rfl⟩
  · exact h x (by omega)

theorem Memory.filledBelow_zero (m : Memory α) : m.filledBelow 0 := fun _ h => absurd h (Nat.not_lt_zero _)

theorem Memory.filled_iff {m : Memory α} {n : Nat} : m.filled n = true ↔ m.filledBelow n := by
  induction n with
  | zero => exact ⟨fun _ => Memory.filledBelow_zero m, fun _ => rfl⟩
  | succ n ih =>
    rw [Memory.filled, Bool.and_eq_true, ih, Option.isSome_iff_exists]
    constructor
    · rintro ⟨hn, h⟩ k hk
      rcases Nat.lt_succ_iff_lt_or_eq.mp hk with hk | rfl
      · exact h k hk
      · exact hn
    · intro h
      exact ⟨h n (Nat.lt_succ_self n), fun k hk => h k (Nat.lt_succ_of_lt hk)⟩

/-- A buffer that is not filled has an element without a value. -/
theorem Memory.exists_unwritten {m : Memory α} {n : Nat} (h : m.filled n = false) : ∃ k, k < n ∧ m.read k = none := by
  by_contra hc
  have : m.filledBelow n := fun k hk => Option.ne_none_iff_exists'.mp fun e => hc ⟨k, hk, e⟩
  rw [Memory.filled_iff.mpr this] at h
  cases h

theorem Memory.filledBelow_of_holds {m : Memory α} {l : List α} (h : m.holds l) : m.filledBelow l.length := by
  intro k hk
  exact ⟨l[k], by rw [h k hk, List.getElem?_eq_getElem hk]⟩

end Sys2Proof.Machine
end

