-- ==== Sys2Proof/Laws/State.lean ====
section
/-! SUPPORT. What each named update of the state writes and what it leaves: one lemma per field per update. -/

namespace Sys2Proof.Machine

/-! ## `emit` -/

@[simp] theorem State.emit_CMD (s : State) (r : TraceRecord) : (s.emit r).CMD = s.CMD := rfl
@[simp] theorem State.emit_N (s : State) (r : TraceRecord) : (s.emit r).N = s.N := rfl
@[simp] theorem State.emit_PLEN (s : State) (r : TraceRecord) : (s.emit r).PLEN = s.PLEN := rfl
@[simp] theorem State.emit_KLEN (s : State) (r : TraceRecord) : (s.emit r).KLEN = s.KLEN := rfl
@[simp] theorem State.emit_NLEN (s : State) (r : TraceRecord) : (s.emit r).NLEN = s.NLEN := rfl
@[simp] theorem State.emit_PT (s : State) (r : TraceRecord) : (s.emit r).PT = s.PT := rfl
@[simp] theorem State.emit_KEY (s : State) (r : TraceRecord) : (s.emit r).KEY = s.KEY := rfl
@[simp] theorem State.emit_NONCE (s : State) (r : TraceRecord) : (s.emit r).NONCE = s.NONCE := rfl
@[simp] theorem State.emit_STATUS (s : State) (r : TraceRecord) : (s.emit r).STATUS = s.STATUS := rfl
@[simp] theorem State.emit_ERR (s : State) (r : TraceRecord) : (s.emit r).ERR = s.ERR := rfl
@[simp] theorem State.emit_PHASE (s : State) (r : TraceRecord) : (s.emit r).PHASE = s.PHASE := rfl
@[simp] theorem State.emit_IDX (s : State) (r : TraceRecord) : (s.emit r).IDX = s.IDX := rfl
@[simp] theorem State.emit_QN (s : State) (r : TraceRecord) : (s.emit r).QN = s.QN := rfl
@[simp] theorem State.emit_VERIFY_OK (s : State) (r : TraceRecord) : (s.emit r).VERIFY_OK = s.VERIFY_OK := rfl
@[simp] theorem State.emit_OLEN (s : State) (r : TraceRecord) : (s.emit r).OLEN = s.OLEN := rfl
@[simp] theorem State.emit_KSLEN (s : State) (r : TraceRecord) : (s.emit r).KSLEN = s.KSLEN := rfl
@[simp] theorem State.emit_TLEN (s : State) (r : TraceRecord) : (s.emit r).TLEN = Counter.succ .tlen s.runRequest s.draws s.TLEN := rfl
@[simp] theorem State.emit_S (s : State) (r : TraceRecord) : (s.emit r).S = s.S := rfl
@[simp] theorem State.emit_I (s : State) (r : TraceRecord) : (s.emit r).I = s.I := rfl
@[simp] theorem State.emit_J (s : State) (r : TraceRecord) : (s.emit r).J = s.J := rfl
@[simp] theorem State.emit_MI (s : State) (r : TraceRecord) : (s.emit r).MI = s.MI := rfl
@[simp] theorem State.emit_MW (s : State) (r : TraceRecord) : (s.emit r).MW = s.MW := rfl
@[simp] theorem State.emit_BLOCK (s : State) (r : TraceRecord) : (s.emit r).BLOCK = s.BLOCK := rfl
@[simp] theorem State.emit_CKEY (s : State) (r : TraceRecord) : (s.emit r).CKEY = s.CKEY := rfl
@[simp] theorem State.emit_CLEN (s : State) (r : TraceRecord) : (s.emit r).CLEN = s.CLEN := rfl
@[simp] theorem State.emit_CUR (s : State) (r : TraceRecord) : (s.emit r).CUR = s.CUR := rfl
@[simp] theorem State.emit_KS (s : State) (r : TraceRecord) : (s.emit r).KS = s.KS := rfl
@[simp] theorem State.emit_OUT (s : State) (r : TraceRecord) : (s.emit r).OUT = s.OUT := rfl
@[simp] theorem State.emit_REC (s : State) (r : TraceRecord) : (s.emit r).REC = s.REC := rfl
@[simp] theorem State.emit_TRACE (s : State) (r : TraceRecord) : (s.emit r).TRACE = s.TRACE.write s.TLEN.toNat r := rfl
@[simp] theorem State.emit_inputs (s : State) (r : TraceRecord) : (s.emit r).inputs = s.inputs := rfl
@[simp] theorem State.emit_returned (s : State) (r : TraceRecord) : (s.emit r).returned = s.returned := rfl
@[simp] theorem State.emit_draws (s : State) (r : TraceRecord) : (s.emit r).draws = drawsAfter s.draws s.TLEN := rfl

/-! ## `raise` -/

@[simp] theorem State.raise_CMD (s : State) (k : ErrKind) : (s.raise k).CMD = s.CMD := rfl
@[simp] theorem State.raise_N (s : State) (k : ErrKind) : (s.raise k).N = s.N := rfl
@[simp] theorem State.raise_PLEN (s : State) (k : ErrKind) : (s.raise k).PLEN = s.PLEN := rfl
@[simp] theorem State.raise_KLEN (s : State) (k : ErrKind) : (s.raise k).KLEN = s.KLEN := rfl
@[simp] theorem State.raise_NLEN (s : State) (k : ErrKind) : (s.raise k).NLEN = s.NLEN := rfl
@[simp] theorem State.raise_PT (s : State) (k : ErrKind) : (s.raise k).PT = s.PT := rfl
@[simp] theorem State.raise_KEY (s : State) (k : ErrKind) : (s.raise k).KEY = s.KEY := rfl
@[simp] theorem State.raise_NONCE (s : State) (k : ErrKind) : (s.raise k).NONCE = s.NONCE := rfl
@[simp] theorem State.raise_STATUS (s : State) (k : ErrKind) : (s.raise k).STATUS = .error := rfl
@[simp] theorem State.raise_ERR (s : State) (k : ErrKind) : (s.raise k).ERR = k := rfl
@[simp] theorem State.raise_PHASE (s : State) (k : ErrKind) : (s.raise k).PHASE = P_ERROR := rfl
@[simp] theorem State.raise_IDX (s : State) (k : ErrKind) : (s.raise k).IDX = s.IDX := rfl
@[simp] theorem State.raise_QN (s : State) (k : ErrKind) : (s.raise k).QN = s.QN := rfl
@[simp] theorem State.raise_VERIFY_OK (s : State) (k : ErrKind) : (s.raise k).VERIFY_OK = s.VERIFY_OK := rfl
@[simp] theorem State.raise_OLEN (s : State) (k : ErrKind) : (s.raise k).OLEN = s.OLEN := rfl
@[simp] theorem State.raise_KSLEN (s : State) (k : ErrKind) : (s.raise k).KSLEN = s.KSLEN := rfl
@[simp] theorem State.raise_TLEN (s : State) (k : ErrKind) : (s.raise k).TLEN = s.TLEN := rfl
@[simp] theorem State.raise_S (s : State) (k : ErrKind) : (s.raise k).S = s.S := rfl
@[simp] theorem State.raise_I (s : State) (k : ErrKind) : (s.raise k).I = s.I := rfl
@[simp] theorem State.raise_J (s : State) (k : ErrKind) : (s.raise k).J = s.J := rfl
@[simp] theorem State.raise_MI (s : State) (k : ErrKind) : (s.raise k).MI = s.MI := rfl
@[simp] theorem State.raise_MW (s : State) (k : ErrKind) : (s.raise k).MW = s.MW := rfl
@[simp] theorem State.raise_BLOCK (s : State) (k : ErrKind) : (s.raise k).BLOCK = s.BLOCK := rfl
@[simp] theorem State.raise_CKEY (s : State) (k : ErrKind) : (s.raise k).CKEY = s.CKEY := rfl
@[simp] theorem State.raise_CLEN (s : State) (k : ErrKind) : (s.raise k).CLEN = s.CLEN := rfl
@[simp] theorem State.raise_CUR (s : State) (k : ErrKind) : (s.raise k).CUR = s.CUR := rfl
@[simp] theorem State.raise_KS (s : State) (k : ErrKind) : (s.raise k).KS = s.KS := rfl
@[simp] theorem State.raise_OUT (s : State) (k : ErrKind) : (s.raise k).OUT = s.OUT := rfl
@[simp] theorem State.raise_REC (s : State) (k : ErrKind) : (s.raise k).REC = s.REC := rfl
@[simp] theorem State.raise_TRACE (s : State) (k : ErrKind) : (s.raise k).TRACE = s.TRACE := rfl
@[simp] theorem State.raise_inputs (s : State) (k : ErrKind) : (s.raise k).inputs = s.inputs := rfl
@[simp] theorem State.raise_returned (s : State) (k : ErrKind) : (s.raise k).returned = s.returned := rfl
@[simp] theorem State.raise_draws (s : State) (k : ErrKind) : (s.raise k).draws = s.draws := rfl

/-! ## `finish` -/

@[simp] theorem State.finish_CMD (s : State) : (s.finish).CMD = s.CMD := rfl
@[simp] theorem State.finish_N (s : State) : (s.finish).N = s.N := rfl
@[simp] theorem State.finish_PLEN (s : State) : (s.finish).PLEN = s.PLEN := rfl
@[simp] theorem State.finish_KLEN (s : State) : (s.finish).KLEN = s.KLEN := rfl
@[simp] theorem State.finish_NLEN (s : State) : (s.finish).NLEN = s.NLEN := rfl
@[simp] theorem State.finish_PT (s : State) : (s.finish).PT = s.PT := rfl
@[simp] theorem State.finish_KEY (s : State) : (s.finish).KEY = s.KEY := rfl
@[simp] theorem State.finish_NONCE (s : State) : (s.finish).NONCE = s.NONCE := rfl
@[simp] theorem State.finish_STATUS (s : State) : (s.finish).STATUS = .done := rfl
@[simp] theorem State.finish_ERR (s : State) : (s.finish).ERR = s.ERR := rfl
@[simp] theorem State.finish_PHASE (s : State) : (s.finish).PHASE = P_DONE := rfl
@[simp] theorem State.finish_IDX (s : State) : (s.finish).IDX = s.IDX := rfl
@[simp] theorem State.finish_QN (s : State) : (s.finish).QN = s.QN := rfl
@[simp] theorem State.finish_VERIFY_OK (s : State) : (s.finish).VERIFY_OK = s.VERIFY_OK := rfl
@[simp] theorem State.finish_OLEN (s : State) : (s.finish).OLEN = s.OLEN := rfl
@[simp] theorem State.finish_KSLEN (s : State) : (s.finish).KSLEN = s.KSLEN := rfl
@[simp] theorem State.finish_TLEN (s : State) : (s.finish).TLEN = s.TLEN := rfl
@[simp] theorem State.finish_S (s : State) : (s.finish).S = s.S := rfl
@[simp] theorem State.finish_I (s : State) : (s.finish).I = s.I := rfl
@[simp] theorem State.finish_J (s : State) : (s.finish).J = s.J := rfl
@[simp] theorem State.finish_MI (s : State) : (s.finish).MI = s.MI := rfl
@[simp] theorem State.finish_MW (s : State) : (s.finish).MW = s.MW := rfl
@[simp] theorem State.finish_BLOCK (s : State) : (s.finish).BLOCK = s.BLOCK := rfl
@[simp] theorem State.finish_CKEY (s : State) : (s.finish).CKEY = s.CKEY := rfl
@[simp] theorem State.finish_CLEN (s : State) : (s.finish).CLEN = s.CLEN := rfl
@[simp] theorem State.finish_CUR (s : State) : (s.finish).CUR = s.CUR := rfl
@[simp] theorem State.finish_KS (s : State) : (s.finish).KS = s.KS := rfl
@[simp] theorem State.finish_OUT (s : State) : (s.finish).OUT = s.OUT := rfl
@[simp] theorem State.finish_REC (s : State) : (s.finish).REC = s.REC := rfl
@[simp] theorem State.finish_TRACE (s : State) : (s.finish).TRACE = s.TRACE := rfl
@[simp] theorem State.finish_inputs (s : State) : (s.finish).inputs = s.inputs := rfl
@[simp] theorem State.finish_returned (s : State) : (s.finish).returned = s.returned := rfl
@[simp] theorem State.finish_draws (s : State) : (s.finish).draws = s.draws := rfl

/-! ## `clearResults` -/

@[simp] theorem State.clearResults_CMD (s : State) : (s.clearResults).CMD = s.CMD := rfl
@[simp] theorem State.clearResults_N (s : State) : (s.clearResults).N = s.N := rfl
@[simp] theorem State.clearResults_PLEN (s : State) : (s.clearResults).PLEN = s.PLEN := rfl
@[simp] theorem State.clearResults_KLEN (s : State) : (s.clearResults).KLEN = s.KLEN := rfl
@[simp] theorem State.clearResults_NLEN (s : State) : (s.clearResults).NLEN = s.NLEN := rfl
@[simp] theorem State.clearResults_PT (s : State) : (s.clearResults).PT = s.PT := rfl
@[simp] theorem State.clearResults_KEY (s : State) : (s.clearResults).KEY = s.KEY := rfl
@[simp] theorem State.clearResults_NONCE (s : State) : (s.clearResults).NONCE = s.NONCE := rfl
@[simp] theorem State.clearResults_STATUS (s : State) : (s.clearResults).STATUS = s.STATUS := rfl
@[simp] theorem State.clearResults_ERR (s : State) : (s.clearResults).ERR = .noError := rfl
@[simp] theorem State.clearResults_PHASE (s : State) : (s.clearResults).PHASE = s.PHASE := rfl
@[simp] theorem State.clearResults_IDX (s : State) : (s.clearResults).IDX = s.IDX := rfl
@[simp] theorem State.clearResults_QN (s : State) : (s.clearResults).QN = s.QN := rfl
@[simp] theorem State.clearResults_VERIFY_OK (s : State) : (s.clearResults).VERIFY_OK = false := rfl
@[simp] theorem State.clearResults_OLEN (s : State) : (s.clearResults).OLEN = 0 := rfl
@[simp] theorem State.clearResults_KSLEN (s : State) : (s.clearResults).KSLEN = 0 := rfl
@[simp] theorem State.clearResults_TLEN (s : State) : (s.clearResults).TLEN = 0 := rfl
@[simp] theorem State.clearResults_S (s : State) : (s.clearResults).S = s.S := rfl
@[simp] theorem State.clearResults_I (s : State) : (s.clearResults).I = s.I := rfl
@[simp] theorem State.clearResults_J (s : State) : (s.clearResults).J = s.J := rfl
@[simp] theorem State.clearResults_MI (s : State) : (s.clearResults).MI = s.MI := rfl
@[simp] theorem State.clearResults_MW (s : State) : (s.clearResults).MW = s.MW := rfl
@[simp] theorem State.clearResults_BLOCK (s : State) : (s.clearResults).BLOCK = s.BLOCK := rfl
@[simp] theorem State.clearResults_CKEY (s : State) : (s.clearResults).CKEY = s.CKEY := rfl
@[simp] theorem State.clearResults_CLEN (s : State) : (s.clearResults).CLEN = s.CLEN := rfl
@[simp] theorem State.clearResults_CUR (s : State) : (s.clearResults).CUR = s.CUR := rfl
@[simp] theorem State.clearResults_KS (s : State) : (s.clearResults).KS = s.KS := rfl
@[simp] theorem State.clearResults_OUT (s : State) : (s.clearResults).OUT = s.OUT := rfl
@[simp] theorem State.clearResults_REC (s : State) : (s.clearResults).REC = s.REC := rfl
@[simp] theorem State.clearResults_TRACE (s : State) : (s.clearResults).TRACE = s.TRACE := rfl
@[simp] theorem State.clearResults_inputs (s : State) : (s.clearResults).inputs = s.inputs := rfl
@[simp] theorem State.clearResults_returned (s : State) : (s.clearResults).returned = s.returned := rfl
@[simp] theorem State.clearResults_draws (s : State) : (s.clearResults).draws = s.draws := rfl

/-! ## `setLengths` -/

@[simp] theorem State.setLengths_CMD (s : State) : (s.setLengths).CMD = s.CMD := rfl
@[simp] theorem State.setLengths_N (s : State) : (s.setLengths).N = s.N := rfl
@[simp] theorem State.setLengths_PLEN (s : State) : (s.setLengths).PLEN = s.PLEN := rfl
@[simp] theorem State.setLengths_KLEN (s : State) : (s.setLengths).KLEN = s.KLEN := rfl
@[simp] theorem State.setLengths_NLEN (s : State) : (s.setLengths).NLEN = s.NLEN := rfl
@[simp] theorem State.setLengths_PT (s : State) : (s.setLengths).PT = s.PT := rfl
@[simp] theorem State.setLengths_KEY (s : State) : (s.setLengths).KEY = s.KEY := rfl
@[simp] theorem State.setLengths_NONCE (s : State) : (s.setLengths).NONCE = s.NONCE := rfl
@[simp] theorem State.setLengths_STATUS (s : State) : (s.setLengths).STATUS = s.STATUS := rfl
@[simp] theorem State.setLengths_ERR (s : State) : (s.setLengths).ERR = s.ERR := rfl
@[simp] theorem State.setLengths_PHASE (s : State) : (s.setLengths).PHASE = s.PHASE := rfl
@[simp] theorem State.setLengths_IDX (s : State) : (s.setLengths).IDX = s.IDX := rfl
@[simp] theorem State.setLengths_QN (s : State) : (s.setLengths).QN = s.QN := rfl
@[simp] theorem State.setLengths_VERIFY_OK (s : State) : (s.setLengths).VERIFY_OK = s.VERIFY_OK := rfl
@[simp] theorem State.setLengths_OLEN (s : State) : (s.setLengths).OLEN = s.IDX + 1 := rfl
@[simp] theorem State.setLengths_KSLEN (s : State) : (s.setLengths).KSLEN = s.IDX + 1 := rfl
@[simp] theorem State.setLengths_TLEN (s : State) : (s.setLengths).TLEN = s.TLEN := rfl
@[simp] theorem State.setLengths_S (s : State) : (s.setLengths).S = s.S := rfl
@[simp] theorem State.setLengths_I (s : State) : (s.setLengths).I = s.I := rfl
@[simp] theorem State.setLengths_J (s : State) : (s.setLengths).J = s.J := rfl
@[simp] theorem State.setLengths_MI (s : State) : (s.setLengths).MI = s.MI := rfl
@[simp] theorem State.setLengths_MW (s : State) : (s.setLengths).MW = s.MW := rfl
@[simp] theorem State.setLengths_BLOCK (s : State) : (s.setLengths).BLOCK = s.BLOCK := rfl
@[simp] theorem State.setLengths_CKEY (s : State) : (s.setLengths).CKEY = s.CKEY := rfl
@[simp] theorem State.setLengths_CLEN (s : State) : (s.setLengths).CLEN = s.CLEN := rfl
@[simp] theorem State.setLengths_CUR (s : State) : (s.setLengths).CUR = s.CUR := rfl
@[simp] theorem State.setLengths_KS (s : State) : (s.setLengths).KS = s.KS := rfl
@[simp] theorem State.setLengths_OUT (s : State) : (s.setLengths).OUT = s.OUT := rfl
@[simp] theorem State.setLengths_REC (s : State) : (s.setLengths).REC = s.REC := rfl
@[simp] theorem State.setLengths_TRACE (s : State) : (s.setLengths).TRACE = s.TRACE := rfl
@[simp] theorem State.setLengths_inputs (s : State) : (s.setLengths).inputs = s.inputs := rfl
@[simp] theorem State.setLengths_returned (s : State) : (s.setLengths).returned = s.returned := rfl
@[simp] theorem State.setLengths_draws (s : State) : (s.setLengths).draws = s.draws := rfl

/-! ## `setBuf` and `buf` -/

@[simp] theorem State.setBuf_PT (s : State) (m : Memory Byte) : s.setBuf .PT m = { s with PT := m } := rfl
@[simp] theorem State.setBuf_KEY (s : State) (m : Memory Byte) : s.setBuf .KEY m = { s with KEY := m } := rfl
@[simp] theorem State.setBuf_NONCE (s : State) (m : Memory Byte) : s.setBuf .NONCE m = { s with NONCE := m } := rfl
@[simp] theorem State.setBuf_BLOCK (s : State) (m : Memory Byte) : s.setBuf .BLOCK m = { s with BLOCK := m } := rfl
@[simp] theorem State.setBuf_CKEY (s : State) (m : Memory Byte) : s.setBuf .CKEY m = { s with CKEY := m } := rfl
@[simp] theorem State.setBuf_KS (s : State) (m : Memory Byte) : s.setBuf .KS m = { s with KS := m } := rfl
@[simp] theorem State.setBuf_OUT (s : State) (m : Memory Byte) : s.setBuf .OUT m = { s with OUT := m } := rfl
@[simp] theorem State.setBuf_REC (s : State) (m : Memory Byte) : s.setBuf .REC m = { s with REC := m } := rfl

@[simp] theorem State.buf_PT (s : State) : s.buf .PT = s.PT := rfl
@[simp] theorem State.buf_KEY (s : State) : s.buf .KEY = s.KEY := rfl
@[simp] theorem State.buf_NONCE (s : State) : s.buf .NONCE = s.NONCE := rfl
@[simp] theorem State.buf_BLOCK (s : State) : s.buf .BLOCK = s.BLOCK := rfl
@[simp] theorem State.buf_CKEY (s : State) : s.buf .CKEY = s.CKEY := rfl
@[simp] theorem State.buf_KS (s : State) : s.buf .KS = s.KS := rfl
@[simp] theorem State.buf_OUT (s : State) : s.buf .OUT = s.OUT := rfl
@[simp] theorem State.buf_REC (s : State) : s.buf .REC = s.REC := rfl

@[simp] theorem State.buf_setBuf (s : State) (b c : ByteBuf) (m : Memory Byte) :
    (s.setBuf b m).buf c = if c = b then m else s.buf c := by
  cases b <;> cases c <;> rfl

@[simp] theorem State.setBuf_any_CMD (s : State) (b : ByteBuf) (m : Memory Byte) : (s.setBuf b m).CMD = s.CMD := by
  cases b <;> rfl
@[simp] theorem State.setBuf_any_N (s : State) (b : ByteBuf) (m : Memory Byte) : (s.setBuf b m).N = s.N := by
  cases b <;> rfl
@[simp] theorem State.setBuf_any_PLEN (s : State) (b : ByteBuf) (m : Memory Byte) : (s.setBuf b m).PLEN = s.PLEN := by
  cases b <;> rfl
@[simp] theorem State.setBuf_any_KLEN (s : State) (b : ByteBuf) (m : Memory Byte) : (s.setBuf b m).KLEN = s.KLEN := by
  cases b <;> rfl
@[simp] theorem State.setBuf_any_NLEN (s : State) (b : ByteBuf) (m : Memory Byte) : (s.setBuf b m).NLEN = s.NLEN := by
  cases b <;> rfl
@[simp] theorem State.setBuf_any_STATUS (s : State) (b : ByteBuf) (m : Memory Byte) : (s.setBuf b m).STATUS = s.STATUS := by
  cases b <;> rfl
@[simp] theorem State.setBuf_any_ERR (s : State) (b : ByteBuf) (m : Memory Byte) : (s.setBuf b m).ERR = s.ERR := by
  cases b <;> rfl
@[simp] theorem State.setBuf_any_PHASE (s : State) (b : ByteBuf) (m : Memory Byte) : (s.setBuf b m).PHASE = s.PHASE := by
  cases b <;> rfl
@[simp] theorem State.setBuf_any_IDX (s : State) (b : ByteBuf) (m : Memory Byte) : (s.setBuf b m).IDX = s.IDX := by
  cases b <;> rfl
@[simp] theorem State.setBuf_any_QN (s : State) (b : ByteBuf) (m : Memory Byte) : (s.setBuf b m).QN = s.QN := by
  cases b <;> rfl
@[simp] theorem State.setBuf_any_VERIFY_OK (s : State) (b : ByteBuf) (m : Memory Byte) : (s.setBuf b m).VERIFY_OK = s.VERIFY_OK := by
  cases b <;> rfl
@[simp] theorem State.setBuf_any_OLEN (s : State) (b : ByteBuf) (m : Memory Byte) : (s.setBuf b m).OLEN = s.OLEN := by
  cases b <;> rfl
@[simp] theorem State.setBuf_any_KSLEN (s : State) (b : ByteBuf) (m : Memory Byte) : (s.setBuf b m).KSLEN = s.KSLEN := by
  cases b <;> rfl
@[simp] theorem State.setBuf_any_TLEN (s : State) (b : ByteBuf) (m : Memory Byte) : (s.setBuf b m).TLEN = s.TLEN := by
  cases b <;> rfl
@[simp] theorem State.setBuf_any_S (s : State) (b : ByteBuf) (m : Memory Byte) : (s.setBuf b m).S = s.S := by
  cases b <;> rfl
@[simp] theorem State.setBuf_any_I (s : State) (b : ByteBuf) (m : Memory Byte) : (s.setBuf b m).I = s.I := by
  cases b <;> rfl
@[simp] theorem State.setBuf_any_J (s : State) (b : ByteBuf) (m : Memory Byte) : (s.setBuf b m).J = s.J := by
  cases b <;> rfl
@[simp] theorem State.setBuf_any_MI (s : State) (b : ByteBuf) (m : Memory Byte) : (s.setBuf b m).MI = s.MI := by
  cases b <;> rfl
@[simp] theorem State.setBuf_any_MW (s : State) (b : ByteBuf) (m : Memory Byte) : (s.setBuf b m).MW = s.MW := by
  cases b <;> rfl
@[simp] theorem State.setBuf_any_CLEN (s : State) (b : ByteBuf) (m : Memory Byte) : (s.setBuf b m).CLEN = s.CLEN := by
  cases b <;> rfl
@[simp] theorem State.setBuf_any_CUR (s : State) (b : ByteBuf) (m : Memory Byte) : (s.setBuf b m).CUR = s.CUR := by
  cases b <;> rfl
@[simp] theorem State.setBuf_any_TRACE (s : State) (b : ByteBuf) (m : Memory Byte) : (s.setBuf b m).TRACE = s.TRACE := by
  cases b <;> rfl
@[simp] theorem State.setBuf_any_inputs (s : State) (b : ByteBuf) (m : Memory Byte) : (s.setBuf b m).inputs = s.inputs := by
  cases b <;> rfl
@[simp] theorem State.setBuf_any_returned (s : State) (b : ByteBuf) (m : Memory Byte) : (s.setBuf b m).returned = s.returned := by
  cases b <;> rfl
@[simp] theorem State.setBuf_any_draws (s : State) (b : ByteBuf) (m : Memory Byte) : (s.setBuf b m).draws = s.draws := by
  cases b <;> rfl

end Sys2Proof.Machine
end

