-- ==== Sys2Proof/Laws/Ops.lean ====
section
/-! SUPPORT. What each shared operation of Machine/Ops.lean and Machine/Operands.lean can do, said once. -/

namespace Sys2Proof.Machine

/-! ## Outcomes -/

@[simp] theorem Res.andThen_next {α β : Type} (a : α) (f : α → Res β) : Res.andThen (.next a) f = f a := rfl

@[simp] theorem Res.andThen_fault {α β : Type} (r : Fault) (f : α → Res β) :
    Res.andThen (.fault r) f = .fault r := rfl

@[simp] theorem Res.andThen_refused {α β : Type} (r : Refusal) (f : α → Res β) :
    Res.andThen (.refused r) f = .refused r := rfl

theorem Res.andThen_eq_next {α β : Type} {x : Res α} {f : α → Res β} {b : β} :
    x.andThen f = .next b ↔ ∃ a, x = .next a ∧ f a = .next b := by
  cases x <;> simp [Res.andThen]

theorem Res.andThen_eq_fault {α β : Type} {x : Res α} {f : α → Res β} {r : Fault} :
    x.andThen f = .fault r ↔ x = .fault r ∨ ∃ a, x = .next a ∧ f a = .fault r := by
  cases x <;> simp [Res.andThen]

theorem Res.andThen_eq_refused {α β : Type} {x : Res α} {f : α → Res β} {r : Refusal} :
    x.andThen f = .refused r ↔ x = .refused r ∨ ∃ a, x = .next a ∧ f a = .refused r := by
  cases x <;> simp [Res.andThen]

/-! ## Buffers -/

theorem noValue_ne_next {α : Type} (b : ByteBuf) (a : α) : noValue b ≠ .next a := by
  cases b <;> simp [noValue]

theorem State.readByte_eq_next {s : State} {b : ByteBuf} {k : Nat} {v : Byte} :
    s.readByte b k = .next v ↔ (s.buf b).read k = some v := by
  unfold State.readByte
  split
  · next w h => simp [h]
  · next h => simp [h, noValue_ne_next]

theorem State.readByte_of_read {s : State} {b : ByteBuf} {k : Nat} {v : Byte} (h : (s.buf b).read k = some v) :
    s.readByte b k = .next v := State.readByte_eq_next.mpr h

theorem State.writeByte_eq_next {s t : State} {b : ByteBuf} {k : Nat} {v : Byte} :
    s.writeByte b k v = .next t ↔ k < b.extent ∧ t = s.setBuf b ((s.buf b).write k v) := by
  unfold State.writeByte
  split
  · next h => simp [h, eq_comm]
  · next h => simp [h]

theorem State.writeByte_of_lt {s : State} {b : ByteBuf} {k : Nat} (v : Byte) (h : k < b.extent) :
    s.writeByte b k v = .next (s.setBuf b ((s.buf b).write k v)) := State.writeByte_eq_next.mpr ⟨h, rfl⟩

theorem State.readBytes_eq_next {s : State} {b : ByteBuf} {n : Nat} : ∀ {k : Nat} {l : List Byte},
    s.readBytes b k n = .next l ↔ l.length = n ∧ ∀ i, i < n → (s.buf b).read (k + i) = l[i]? := by
  induction n with
  | zero =>
    intro k l
    simp only [State.readBytes]
    constructor
    · intro h; cases h; simp
    · rintro ⟨h, -⟩; rw [List.length_eq_zero_iff.mp h]
  | succ n ih =>
    intro k l
    simp only [State.readBytes, Res.andThen_eq_next, State.readByte_eq_next, ih]
    constructor
    · rintro ⟨v, hv, vs, ⟨hlen, hvs⟩, h⟩
      cases h
      refine ⟨by simp [hlen], fun i hi => ?_⟩
      cases i with
      | zero => simpa using hv
      | succ i => simpa [Nat.add_assoc, Nat.add_comm 1 i] using hvs i (by omega)
    · rintro ⟨hlen, h⟩
      cases l with
      | nil => simp at hlen
      | cons v vs =>
        refine ⟨v, by simpa using h 0 (by omega), vs, ⟨by simpa using hlen, fun i hi => ?_⟩, rfl⟩
        simpa [Nat.add_assoc, Nat.add_comm 1 i] using h (i + 1) (by omega)

theorem State.readBytes_of_holds {s : State} {b : ByteBuf} {l : List Byte} {n : Nat} (hn : n = l.length)
    (h : (s.buf b).holds l) : s.readBytes b 0 n = .next l := by
  subst hn
  exact State.readBytes_eq_next.mpr ⟨rfl, fun i hi => by simpa using h i hi⟩

theorem State.holds_of_readBytes {s : State} {b : ByteBuf} {l : List Byte} {n : Nat}
    (h : s.readBytes b 0 n = .next l) : l.length = n ∧ (s.buf b).holds l := by
  obtain ⟨h1, h2⟩ := State.readBytes_eq_next.mp h
  exact ⟨h1, fun k hk => by simpa using h2 k (by omega)⟩

theorem State.readBytes_of_filled {s : State} {b : ByteBuf} {n : Nat} : ∀ {k : Nat},
    (∀ i, i < n → ∃ v, (s.buf b).read (k + i) = some v) → ∃ l, s.readBytes b k n = .next l := by
  induction n with
  | zero => intro k _; exact ⟨[], rfl⟩
  | succ n ih =>
    intro k h
    obtain ⟨v, hv⟩ := h 0 (by omega)
    obtain ⟨l, hl⟩ := ih (k := k + 1) (fun i hi => by
      simpa [Nat.add_assoc, Nat.add_comm 1 i] using h (i + 1) (by omega))
    exact ⟨v :: l, by
      rw [Nat.add_zero] at hv
      simp [State.readBytes, State.readByte_of_read hv, hl]⟩

/-- The content of a buffer after a sequence is written from element k on. -/
def Memory.writeAll {α : Type} (m : Memory α) (k : Nat) : List α → Memory α
  | [] => m
  | v :: vs => Memory.writeAll (m.write k v) (k + 1) vs

theorem Memory.read_writeAll {α : Type} (vs : List α) : ∀ (m : Memory α) (k x : Nat),
    (m.writeAll k vs).read x = if k ≤ x ∧ x < k + vs.length then vs[x - k]? else m.read x := by
  induction vs with
  | nil =>
    intro m k x
    rw [if_neg (by simp only [List.length_nil]; omega)]
    rfl
  | cons v vs ih =>
    intro m k x
    rw [Memory.writeAll, ih, Memory.read_write]
    by_cases h1 : x = k
    · subst h1; simp
    · by_cases h2 : k ≤ x ∧ x < k + (v :: vs).length
      · have h3 : k + 1 ≤ x ∧ x < k + 1 + vs.length := by simp at h2; omega
        have h4 : x - k = (x - (k + 1)) + 1 := by omega
        rw [if_pos h3, if_pos h2, h4]
        simp
      · have h3 : ¬ (k + 1 ≤ x ∧ x < k + 1 + vs.length) := by simp at h2; omega
        rw [if_neg h3, if_neg h1, if_neg h2]

theorem Memory.writeAll_wf {α : Type} (vs : List α) : ∀ (m : Memory α) (k : Nat), m.wf → (m.writeAll k vs).wf := by
  induction vs with
  | nil => intro m k h; exact h
  | cons v vs ih => intro m k h; exact ih _ _ (Memory.write_wf k v h)

theorem Memory.writeAll_within {α : Type} {n : Nat} (vs : List α) : ∀ (m : Memory α) (k : Nat), m.within n →
    (vs = [] ∨ k + vs.length ≤ n) → (m.writeAll k vs).within n := by
  induction vs with
  | nil => intro m k h _; exact h
  | cons v vs ih =>
    intro m k h hk
    simp at hk
    exact ih _ _ (Memory.write_within h (by omega)) (.inr (by omega))

theorem State.setBuf_setBuf (s : State) (b : ByteBuf) (m m' : Memory Byte) :
    (s.setBuf b m).setBuf b m' = s.setBuf b m' := by
  cases b <;> rfl

theorem State.setBuf_buf (s : State) (b : ByteBuf) : s.setBuf b (s.buf b) = s := by
  cases b <;> rfl

theorem State.writeBytes_eq_next {b : ByteBuf} (vs : List Byte) : ∀ {s t : State} {k : Nat},
    s.writeBytes b k vs = .next t ↔
      (vs = [] ∨ k + vs.length ≤ b.extent) ∧ t = s.setBuf b ((s.buf b).writeAll k vs) := by
  induction vs with
  | nil => intro s t k; simp [State.writeBytes, Memory.writeAll, State.setBuf_buf, eq_comm]
  | cons v vs ih =>
    intro s t k
    simp only [State.writeBytes, Res.andThen_eq_next, State.writeByte_eq_next, ih]
    constructor
    · rintro ⟨_, ⟨hk, rfl⟩, hvs, rfl⟩
      refine ⟨.inr ?_, by simp [State.setBuf_setBuf, Memory.writeAll]⟩
      rcases hvs with rfl | hvs
      · simp; omega
      · simp; omega
    · rintro ⟨hk, rfl⟩
      simp at hk
      exact ⟨_, ⟨by omega, rfl⟩, by
        by_cases h : vs = []
        · exact .inl h
        · exact .inr (by omega), by simp [State.setBuf_setBuf, Memory.writeAll]⟩

theorem State.writeBytes_of_fits {s : State} {b : ByteBuf} {k : Nat} {vs : List Byte}
    (h : k + vs.length ≤ b.extent) : s.writeBytes b k vs = .next (s.setBuf b ((s.buf b).writeAll k vs)) :=
  (State.writeBytes_eq_next vs).mpr ⟨.inr h, rfl⟩

/-! ## Bounds of the OPEN parameters (R7) -/

theorem Config.PT_MAX_pos : 1 ≤ Config.PT_MAX := by unfold Config.PT_MAX; omega

theorem Config.PT_MAX_lt : Config.PT_MAX < 2 ^ 32 := by unfold Config.PT_MAX; omega

theorem Config.KEY_MAX_ge : 32 ≤ Config.KEY_MAX := by unfold Config.KEY_MAX; omega

theorem Config.KEY_MAX_lt : Config.KEY_MAX < 2 ^ 32 := by unfold Config.KEY_MAX; omega

/-! ## Counters -/

theorem Counter.succ_toNat {c : Counter} {q : RunRequest} {d : Nat} {v : Word} (h : v.toNat + 1 < 2 ^ 32) :
    (Counter.succ c q d v).toNat = v.toNat + 1 := by
  have hv : v ≠ BitVec.allOnes 32 := fun e => by subst e; simp at h
  rw [Counter.succ, if_neg hv, BitVec.toNat_add]
  exact Nat.mod_eq_of_lt h

theorem Word.succ_toNat {v : Word} (h : v.toNat + 1 < 2 ^ 32) : (v + 1).toNat = v.toNat + 1 := by
  rw [BitVec.toNat_add]; exact Nat.mod_eq_of_lt h

/-! ## What a write leaves, in the terms of Safety.lean -/

theorem emitted_of_write {s t : State} {r : TraceRecord} (q : RunRequest) (d : Nat)
    (h1 : t.TRACE = s.TRACE.write s.TLEN.toNat r) (h2 : t.TLEN = Counter.succ .tlen q d s.TLEN) : Emitted s t r where
  record := by rw [h1]; exact Memory.read_write_same _ _ _
  others k hk := by rw [h1]; exact Memory.read_write_other _ _ hk
  count h := by rw [h2]; exact Counter.succ_toNat h

theorem stored_write (m : Memory Byte) (k : Nat) (v : Byte) : Stored m (m.write k v) k v where
  value := Memory.read_write_same _ _ _
  others _ hx := Memory.read_write_other _ _ hx

theorem storedAll_writeAll (m : Memory Byte) (vs : List Byte) : StoredAll m (m.writeAll 0 vs) vs where
  values k hk := by rw [Memory.read_writeAll, if_pos (by omega), Nat.sub_zero]
  others x hx := by rw [Memory.read_writeAll, if_neg (by omega)]

/-! ## The SPC register file -/

theorem getS_eq (S : Vector Byte 256) (i : Byte) : getS S i = S.toList.getD i.toNat 0 := by
  have h : i.toNat < S.toList.length := by simp [i.isLt]
  simp [getS, List.getD, List.getElem?_eq_getElem h]

theorem sPrefix_length {S : Vector Byte 256} {n : Nat} (h : n ≤ 256) : (sPrefix S n).length = n := by
  simp [sPrefix, h]

theorem sPrefix_getD (S : Vector Byte 256) {n : Nat} {i : Byte} (h : i.toNat < n) :
    (sPrefix S n).getD i.toNat 0 = getS S i := by
  rw [getS_eq]
  simp [sPrefix, List.getD, h]

/-- `swap` on the register file is `swap` on the part that the run uses. -/
theorem sPrefix_swap (S : Vector Byte 256) {n : Nat} {a b : Byte} (ha : a.toNat < n) (hb : b.toNat < n) :
    sPrefix (swap S a b) n = swapList (sPrefix S n) a.toNat b.toNat := by
  rw [swapList, sPrefix_getD S ha, sPrefix_getD S hb]
  rw [sPrefix, swap, Vector.toList_set, Vector.toList_set, List.take_set, List.take_set]
  rfl

theorem getS_swap (S : Vector Byte 256) (a b x : Byte) :
    getS (swap S a b) x = if x = b then getS S a else if x = a then getS S b else getS S x := by
  simp only [getS, swap, Vector.getElem_set]
  by_cases h1 : x = b
  · simp [h1]
  · have h1' : ¬ b.toNat = x.toNat := fun h => h1 (BitVec.eq_of_toNat_eq h.symm)
    by_cases h2 : x = a
    · subst h2; simp [h1, h1']
    · have h2' : ¬ a.toNat = x.toNat := fun h => h2 (BitVec.eq_of_toNat_eq h.symm)
      simp [h1, h2, h1', h2']

/-- A register file that reads as one after a swap is that one. -/
theorem eq_swap_of_getS {S T : Vector Byte 256} {a b : Byte}
    (h : ∀ x, getS T x = if x = a then getS S b else if x = b then getS S a else getS S x) : T = swap S a b := by
  apply Vector.ext
  intro x hx
  have hx8 : (BitVec.ofNat 8 x).toNat = x := by simp; omega
  have key : getS T (BitVec.ofNat 8 x) = getS (swap S a b) (BitVec.ofNat 8 x) := by
    rw [h, getS_swap]
    by_cases ha : BitVec.ofNat 8 x = a <;> by_cases hb : BitVec.ofNat 8 x = b
    · rw [if_pos ha, if_pos hb, ← ha, ← hb]
    · rw [if_pos ha, if_neg hb, if_pos ha]
    · rw [if_neg ha, if_pos hb, if_pos hb]
    · rw [if_neg ha, if_neg hb, if_neg hb, if_neg ha]
  simp only [getS] at key
  simpa [hx8] using key

theorem swapList_perm {l : List Byte} {a b : Nat} (ha : a < l.length) (hb : b < l.length) :
    (swapList l a b).Perm l := by
  simp only [swapList, List.getD, List.getElem?_eq_getElem ha, List.getElem?_eq_getElem hb, Option.getD_some]
  exact List.set_set_perm ha hb

theorem isPermutation_swap {S : Vector Byte 256} {n : Nat} {a b : Byte} (hn : n ≤ 256) (ha : a.toNat < n)
    (hb : b.toNat < n) (h : isPermutation S n) : isPermutation (swap S a b) n := by
  unfold isPermutation at *
  rw [sPrefix_swap S ha hb]
  exact (swapList_perm (by rwa [sPrefix_length hn]) (by rwa [sPrefix_length hn])).trans h

theorem sPrefix_identityBelow (S : Vector Byte 256) {n : Nat} (h : n ≤ 256) :
    sPrefix (identityBelow S n) n = (List.range n).map (BitVec.ofNat 8) := by
  apply List.ext_getElem
  · simp [sPrefix, h]
  · intro i h1 h2
    have hi : i < n := by simpa using h2
    simp only [sPrefix, identityBelow, List.getElem_take, Vector.getElem_toList, Vector.getElem_ofFn, hi, if_true,
      List.getElem_map, List.getElem_range]

theorem modIndex_toNat {sum n : Nat} (h1 : 0 < n) (h2 : n ≤ 256) : (modIndex sum n).toNat = sum % n := by
  have := Nat.mod_lt sum h1
  simp [modIndex]
  omega

theorem modIndex_lt {sum n : Nat} (h1 : 0 < n) (h2 : n ≤ 256) : (modIndex sum n).toNat < n := by
  rw [modIndex_toNat h1 h2]; exact Nat.mod_lt _ h1

/-! ## Operands -/

theorem State.spcExtent_eq_next {s : State} {n : Nat} :
    s.spcExtent = .next n ↔ s.N.toNat = n ∧ n ≤ 256 := by
  unfold State.spcExtent
  split
  · next h =>
    constructor
    · intro e; cases e; exact ⟨rfl, h⟩
    · rintro ⟨rfl, -⟩; rfl
  · next h =>
    constructor
    · intro e; cases e
    · rintro ⟨rfl, h'⟩; exact absurd h' h

theorem State.spcModulus_eq_next {s : State} {n : Nat} :
    s.spcModulus = .next n ↔ s.N.toNat = n ∧ 0 < n ∧ n ≤ 256 := by
  simp only [State.spcModulus, Res.andThen_eq_next, State.spcExtent_eq_next]
  constructor
  · rintro ⟨m, ⟨h1, h2⟩, h3⟩
    split at h3
    · cases h3
    · cases h3; exact ⟨h1, by omega, h2⟩
  · rintro ⟨h1, h2, h3⟩
    exact ⟨n, ⟨h1, h3⟩, if_neg (by omega)⟩

theorem State.idxOfS_eq_next {s : State} {i : Byte} :
    s.idxOfS = .next i ↔ s.IDX.toNat = i.toNat := by
  unfold State.idxOfS
  split
  · next h =>
    constructor
    · intro e; cases e; simp; omega
    · intro e; rw [e]; simp
  · next h =>
    constructor
    · intro e; cases e
    · intro e; exact absurd (e ▸ i.isLt) h

theorem State.keyCycled_eq_next {s : State} {k : Nat} {v : Byte} :
    s.keyCycled k = .next v ↔ s.KLEN.toNat ≠ 0 ∧ s.KEY.read (k % s.KLEN.toNat) = some v := by
  unfold State.keyCycled
  split
  · next h => simp [h]
  · next h => simp [h, State.readByte_eq_next]

theorem State.keyLetter_eq_next {s : State} {ki : Nat} {kl : Byte} :
    s.keyLetter = .next (ki, kl) ↔ s.CLEN.toNat ≠ 0 ∧ ki = s.CUR.toNat % s.CLEN.toNat ∧
      s.CKEY.read ki = some kl ∧ isUpper kl = true := by
  unfold State.keyLetter
  split
  · next h => simp [h]
  · next h =>
    simp only [Res.andThen_eq_next, State.readByte_eq_next, State.buf_CKEY]
    constructor
    · rintro ⟨v, hv, h2⟩
      split at h2
      · next hu => cases h2; exact ⟨h, rfl, hv, hu⟩
      · cases h2
    · rintro ⟨-, rfl, h2, h3⟩
      exact ⟨kl, h2, by simp [h3]⟩

/-- The letter at position q is the q-th of the alphabet (R221), or its lower case. -/
theorem letterAt_eq_ALPHABET (q : Fin 26) :
    letterAt q false = ALPHABET[q] ∧ letterAt q true = ALPHABET[q] + 0x20 := by
  revert q; decide

/-- A letter stands in the alphabet at its position (R43). -/
theorem ALPHABET_letterPos {u : Byte} (h : isUpper u = true) : ALPHABET[letterPos u]? = some u := by
  revert u; decide +kernel

end Sys2Proof.Machine
end

