-- ==== Sys2Proof/Laws/Exec.lean ====
section
/-! SUPPORT. When each micro-operation answers a next state, and which: one lemma per meaning. -/

namespace Sys2Proof.Machine

/-! ## The front end -/

theorem hStart_eq_next {s t : State} {w : Word} :
    hStart w s = .next t ↔ s.STATUS ≠ .busy ∧
      t = { s.clearResults with CMD := w, PHASE := P_VALIDATE, STATUS := .busy, draws := 0 } := by
  unfold hStart
  split
  · next h => exact ⟨fun e => (by cases e), fun e => absurd h e.1⟩
  · next h => exact ⟨fun e => (by cases e; exact ⟨h, rfl⟩), fun e => (by rw [e.2])⟩

/-- When the request is written (R283): no length register covers an element without a value. -/
theorem State.unwritten_eq_none {s : State} : s.unwritten = none ↔
    s.PT.filledBelow s.PLEN.toNat ∧ s.KEY.filledBelow s.KLEN.toNat ∧
      (cmdOp s.CMD = 2 → s.NONCE.filledBelow s.NLEN.toNat) := by
  simp only [← Memory.filled_iff]
  unfold State.unwritten
  split
  · next h => simp [h]
  · next h1 =>
    split
    · next h => simp [h]
    · next h2 =>
      split
      · next h => simp [h]
      · next h3 =>
        rw [Bool.not_eq_false] at h1 h2
        simpa [h1, h2] using h3

/-- The buffer that `unwritten` names has an element without a value below its length register. -/
theorem State.unwritten_eq_some {s : State} {b : ByteBuf} (h : s.unwritten = some b) :
    ∃ k, (s.buf b).read k = none ∧
      ((b = .PT ∧ k < s.PLEN.toNat) ∨ (b = .KEY ∧ k < s.KLEN.toNat) ∨
       (b = .NONCE ∧ cmdOp s.CMD = 2 ∧ k < s.NLEN.toNat)) := by
  unfold State.unwritten at h
  split at h
  · next hf => cases h; obtain ⟨k, hk, e⟩ := Memory.exists_unwritten hf; exact ⟨k, e, .inl ⟨rfl, hk⟩⟩
  · split at h
    · next hf => cases h; obtain ⟨k, hk, e⟩ := Memory.exists_unwritten hf; exact ⟨k, e, .inr (.inl ⟨rfl, hk⟩)⟩
    · split at h
      · next hf => cases h; obtain ⟨k, hk, e⟩ := Memory.exists_unwritten hf.2; exact ⟨k, e, .inr (.inr ⟨rfl, hf.1, hk⟩)⟩
      · cases h

/-- The outcomes of the checks on the operands (R126). -/
theorem State.checkOperands_cases (s : State) :
    ((s.PLEN = 0 ∨ s.KLEN = 0) ∧ s.checkOperands = s.raise .emptyInput) ∨
    (s.PLEN ≠ 0 ∧ s.KLEN ≠ 0 ∧
      ((cmdOp s.CMD = 1 ∧ (cmdNv s.CMD = false ∨ s.stateSize ≤ 0) ∧ s.checkOperands = s.raise .invalidParameter) ∨
       (cmdOp s.CMD = 1 ∧ cmdNv s.CMD = true ∧ 0 < s.stateSize ∧ s.checkOperands = { s with PHASE := P_SPC_INIT }) ∨
       (cmdOp s.CMD = 2 ∧ s.checkOperands = { s with PHASE := P_ARX_INIT }) ∨
       (cmdOp s.CMD ≠ 1 ∧ cmdOp s.CMD ≠ 2 ∧ s.checkOperands = { s with PHASE := P_PAC_CLEAN }))) := by
  unfold State.checkOperands
  split
  · next h => exact .inl ⟨h, rfl⟩
  · next h =>
    obtain ⟨a, b⟩ := not_or.mp h
    refine .inr ⟨a, b, ?_⟩
    split
    · next h2 =>
      split
      · next h3 => exact .inl ⟨h2, h3, rfl⟩
      · next h3 =>
        obtain ⟨x, y⟩ := not_or.mp h3
        exact .inr (.inl ⟨h2, by simpa using x, by omega, rfl⟩)
    · next h2 =>
      split
      · next h3 => exact .inr (.inr (.inl ⟨h3, rfl⟩))
      · next h3 => exact .inr (.inr (.inr ⟨h2, h3, rfl⟩))

/-- When `U_VALIDATE` answers a next state, and which (R126, R127, R283). -/
theorem execUValidate_eq_next {s t : State} : execUValidate s = .next t ↔
    (legalCommand s.CMD = false ∧ t = s.raise .illegalCommand) ∨
    (legalCommand s.CMD = true ∧ s.excess = none ∧ s.unwritten = none ∧ t = s.checkOperands) := by
  unfold execUValidate
  cases hl : legalCommand s.CMD with
  | false => simp [eq_comm]
  | true =>
    cases he : s.excess with
    | some e => simp
    | none => cases hw : s.unwritten <;> simp [eq_comm]

/-- When `U_VALIDATE` is refused, and why (R127, R283). -/
theorem execUValidate_eq_refused {s : State} {r : Refusal} : execUValidate s = .refused r ↔
    legalCommand s.CMD = true ∧
      ((∃ e, s.excess = some e ∧ r = .notAdmitted e) ∨
       (s.excess = none ∧ ∃ b, s.unwritten = some b ∧ r = .requestUnwritten b)) := by
  unfold execUValidate
  cases hl : legalCommand s.CMD with
  | false => simp
  | true =>
    cases he : s.excess with
    | some e => simp [eq_comm]
    | none => cases hw : s.unwritten <;> simp [eq_comm]

/-! ## SPC -/

theorem execUSpcInit_eq_next {s t : State} :
    execUSpcInit s = .next t ↔ s.N.toNat ≤ 256 ∧
      t = { s with S := identityBelow s.S s.N.toNat, J := 0, IDX := 0, PHASE := P_KSA } := by
  simp only [execUSpcInit, Res.andThen_eq_next, State.spcExtent_eq_next]
  constructor
  · rintro ⟨n, ⟨rfl, h⟩, e⟩; cases e; exact ⟨h, rfl⟩
  · rintro ⟨h, rfl⟩; exact ⟨_, ⟨rfl, h⟩, rfl⟩

/-- The state after `U_KSA_STEP` with stateSize n, iteration i and key byte kb. -/
def ksaNext (s : State) (n : Nat) (i kb : Byte) : State :=
  let j := modIndex (s.J.toNat + (getS s.S i).toNat + kb.toNat) n
  let S' := swap s.S i j
  let s1 := { s with J := j, S := S' }.emit (.ksaStep s.IDX.toNat kb (sPrefix s.S n) j.toNat (sPrefix S' n))
  if s.IDX.toNat + 1 < n then { s1 with IDX := s.IDX + 1 } else { s1 with PHASE := P_PRGA_INIT }

theorem execUKsaStep_eq_next {s t : State} :
    execUKsaStep s = .next t ↔ ∃ n i kb, s.N.toNat = n ∧ 0 < n ∧ n ≤ 256 ∧ s.IDX.toNat = i.toNat ∧
      s.KLEN.toNat ≠ 0 ∧ s.KEY.read (s.IDX.toNat % s.KLEN.toNat) = some kb ∧ t = ksaNext s n i kb := by
  simp only [execUKsaStep, Res.andThen_eq_next, State.spcModulus_eq_next, State.idxOfS_eq_next,
    State.keyCycled_eq_next]
  constructor
  · rintro ⟨n, ⟨h1, h2, h3⟩, i, h4, kb, ⟨h5, h6⟩, e⟩
    exact ⟨n, i, kb, h1, h2, h3, h4, h5, h6, by cases e; rfl⟩
  · rintro ⟨n, i, kb, h1, h2, h3, h4, h5, h6, rfl⟩
    exact ⟨n, ⟨h1, h2, h3⟩, i, h4, kb, ⟨h5, h6⟩, rfl⟩

theorem execUPrgaInit_eq_next {s t : State} :
    execUPrgaInit s = .next t ↔ t = { s with I := 0, J := 0, IDX := 0, PHASE := P_PRGA } := by
  simp [execUPrgaInit, eq_comm]

/-- The state after `U_PRGA_STEP` with stateSize n and plaintext byte p. -/
def prgaNext (s : State) (n : Nat) (p : Byte) : State :=
  let k := s.IDX.toNat
  let i := modIndex (s.I.toNat + 1) n
  let j := modIndex (s.J.toNat + (getS s.S i).toNat) n
  let S' := swap s.S i j
  let t := modIndex ((getS S' i).toNat + (getS S' j).toNat) n
  let z := getS S' t
  let s1 := { s with
      I := i, J := j, S := S', KS := s.KS.write k z, OUT := s.OUT.write k (p ^^^ z),
      KSLEN := s.IDX + 1, OLEN := s.IDX + 1 }.emit
    (.prgaStep k i.toNat j.toNat (getS S' i) (getS S' j) t.toNat z p (p ^^^ z) (sPrefix S' n))
  if k + 1 < s.PLEN.toNat then { s1 with IDX := s.IDX + 1 } else { s1 with PHASE := P_SPC_VERIFY }

theorem execUPrgaStep_eq_next {s t : State} :
    execUPrgaStep s = .next t ↔ ∃ n p, s.N.toNat = n ∧ 0 < n ∧ n ≤ 256 ∧ s.PT.read s.IDX.toNat = some p ∧
      s.IDX.toNat < Config.PT_MAX ∧ t = prgaNext s n p := by
  simp only [execUPrgaStep, Res.andThen_eq_next, State.spcModulus_eq_next, State.readByte_eq_next,
    State.writeByte_eq_next, State.buf_PT]
  constructor
  · rintro ⟨n, ⟨h1, h2, h3⟩, p, h4, s1, ⟨h5, rfl⟩, s2, ⟨-, rfl⟩, e⟩
    exact ⟨n, p, h1, h2, h3, h4, h5, by cases e; rfl⟩
  · rintro ⟨n, p, h1, h2, h3, h4, h5, rfl⟩
    exact ⟨n, ⟨h1, h2, h3⟩, p, h4, _, ⟨h5, rfl⟩, _, ⟨h5, rfl⟩, rfl⟩

/-- The state after `U_SPC_VERIFY` with these output, keystream and text bytes. -/
def verifyNext (s : State) (out ks pt : List Byte) : State :=
  let recovered := List.zipWith (· ^^^ ·) out ks
  let ok := verifyOk recovered pt
  ({ s with REC := s.REC.writeAll 0 recovered, VERIFY_OK := ok }.emit (.spcVerify recovered ok)).finish

theorem execUSpcVerify_eq_next {s t : State} :
    execUSpcVerify s = .next t ↔ ∃ out ks pt : List Byte, (out.length = s.PLEN.toNat ∧ s.OUT.holds out) ∧
      (ks.length = s.PLEN.toNat ∧ s.KS.holds ks) ∧ (pt.length = s.PLEN.toNat ∧ s.PT.holds pt) ∧
      (s.PLEN.toNat = 0 ∨ s.PLEN.toNat ≤ Config.PT_MAX) ∧ t = verifyNext s out ks pt := by
  have key : ∀ out ks : List Byte, out.length = s.PLEN.toNat → ks.length = s.PLEN.toNat →
      ((List.zipWith (· ^^^ ·) out ks = [] ∨ 0 + (List.zipWith (· ^^^ ·) out ks).length ≤ Config.PT_MAX) ↔
        (s.PLEN.toNat = 0 ∨ s.PLEN.toNat ≤ Config.PT_MAX)) := by
    intro out ks h1 h2
    rw [← List.length_eq_zero_iff, List.length_zipWith, h1, h2, Nat.min_self, Nat.zero_add]
  simp only [execUSpcVerify, Res.andThen_eq_next, State.writeBytes_eq_next]
  constructor
  · rintro ⟨out, h1, ks, h2, pt, h3, s1, ⟨h4, rfl⟩, e⟩
    have g1 := State.holds_of_readBytes h1
    have g2 := State.holds_of_readBytes h2
    have g3 := State.holds_of_readBytes h3
    exact ⟨out, ks, pt, g1, g2, g3, (key out ks g1.1 g2.1).mp h4, by cases e; rfl⟩
  · rintro ⟨out, ks, pt, ⟨l1, h1⟩, ⟨l2, h2⟩, ⟨l3, h3⟩, h4, rfl⟩
    exact ⟨out, State.readBytes_of_holds l1.symm h1, ks, State.readBytes_of_holds l2.symm h2, pt,
      State.readBytes_of_holds l3.symm h3, _, ⟨(key out ks l1 l2).mpr h4, rfl⟩, rfl⟩

/-! ## ARX -/

theorem execUArxInit_eq_next {s t : State} :
    execUArxInit s = .next t ↔ ∃ key nonce, s.keyHead = .next key ∧ s.nonceHead = .next nonce ∧
      t = { { s with MI := initialMatrix key nonce }.emit (.arxInit (initialMatrix key nonce)) with
            PHASE := P_ARX_COPY } := by
  simp only [execUArxInit, Res.andThen_eq_next]
  constructor
  · rintro ⟨key, h1, nonce, h2, e⟩; cases e; exact ⟨key, nonce, h1, h2, rfl⟩
  · rintro ⟨key, nonce, h1, h2, rfl⟩; exact ⟨key, h1, nonce, h2, rfl⟩

theorem execUArxCopy_eq_next {s t : State} :
    execUArxCopy s = .next t ↔ t = { s with MW := s.MI, QN := 0, PHASE := P_ARX_QR } := by
  simp [execUArxCopy, eq_comm]

/-- The state after `U_ARX_QR`. -/
def arxQrNext (s : State) : State :=
  let g := group (slotOf s.QN.toNat)
  let steps := qrSteps s.MW[g.a] s.MW[g.b] s.MW[g.c] s.MW[g.d]
  let mw := quarterRoundAt s.MW g
  let s1 := { s with MW := mw }.emit
    (.arxQr s.QN.toNat g.a.val g.b.val g.c.val g.d.val s.MW[g.a] s.MW[g.b] s.MW[g.c] s.MW[g.d] steps
      steps[6] steps[11] steps[9] steps[8] mw)
  if s.QN.toNat < 79 then { s1 with QN := s.QN + 1 } else { s1 with PHASE := P_ARX_FINAL }

theorem execUArxQr_eq_next {s t : State} : execUArxQr s = .next t ↔ t = arxQrNext s := by
  simp [execUArxQr, arxQrNext, eq_comm]

theorem leBytes_length (w : Word) : (leBytes w).length = 4 := rfl

theorem serialize_length (v : Vector Word 16) : (serialize v).length = 64 := by
  have : ∀ l : List Word, (l.flatMap leBytes).length = 4 * l.length := by
    intro l
    induction l with
    | nil => rfl
    | cons w l ih => rw [List.flatMap_cons, List.length_append, ih, leBytes_length, List.length_cons]; omega
  rw [serialize, this, Vector.length_toList]

/-- The state after `U_ARX_FINAL`. -/
def arxFinalNext (s : State) : State :=
  let sum := matrixSum s.MW s.MI
  { { s with BLOCK := s.BLOCK.writeAll 0 (serialize sum) }.emit (.arxFinal s.MW sum (serialize sum)) with
    IDX := 0, PHASE := P_ARX_XOR }

theorem execUArxFinal_eq_next {s t : State} : execUArxFinal s = .next t ↔ t = arxFinalNext s := by
  simp only [execUArxFinal, Res.andThen_eq_next, State.writeBytes_eq_next]
  constructor
  · rintro ⟨s1, ⟨-, rfl⟩, e⟩; cases e; rfl
  · rintro rfl
    exact ⟨_, ⟨.inr (by rw [serialize_length]; decide), rfl⟩, rfl⟩

/-- The state after `U_ARX_XOR` with plaintext byte p and block byte z. -/
def arxXorNext (s : State) (p z : Byte) : State :=
  let k := s.IDX.toNat
  let s1 := { s with
      KS := s.KS.write k z, OUT := s.OUT.write k (p ^^^ z), KSLEN := s.IDX + 1, OLEN := s.IDX + 1 }.emit
    (.arxXor k (k % 64) p z (p ^^^ z))
  if k + 1 < s.PLEN.toNat then { s1 with IDX := s.IDX + 1 } else s1.finish

theorem execUArxXor_eq_next {s t : State} :
    execUArxXor s = .next t ↔ ∃ p z, s.PT.read s.IDX.toNat = some p ∧ s.BLOCK.read (s.IDX.toNat % 64) = some z ∧
      s.IDX.toNat < Config.PT_MAX ∧ t = arxXorNext s p z := by
  simp only [execUArxXor, Res.andThen_eq_next, State.readByte_eq_next, State.writeByte_eq_next, State.buf_PT,
    State.buf_BLOCK]
  constructor
  · rintro ⟨p, h1, z, h2, s1, ⟨h3, rfl⟩, s2, ⟨-, rfl⟩, e⟩
    exact ⟨p, z, h1, h2, h3, by cases e; rfl⟩
  · rintro ⟨p, z, h1, h2, h3, rfl⟩
    exact ⟨p, h1, z, h2, _, ⟨h3, rfl⟩, _, ⟨h3, rfl⟩, rfl⟩

/-! ## PAC -/

theorem cleanKey_length_le (key : List Byte) : (cleanKey key).length ≤ key.length := by
  rw [cleanKey, List.length_map]; exact List.length_filter_le _ _

/-- The state after `U_PAC_CLEAN` has written the cleaned key and its record. -/
def pacCleaned (s : State) (ckey : List Byte) : State :=
  { s with CKEY := s.CKEY.writeAll 0 ckey, CLEN := BitVec.ofNat 32 ckey.length }.emit (.pacClean ckey)

theorem execUPacClean_eq_next {s t : State} :
    execUPacClean s = .next t ↔ ∃ key : List Byte, (key.length = s.KLEN.toNat ∧ s.KEY.holds key) ∧
      (cleanKey key ≠ [] ∧ (cleanKey key).length ≤ Config.KEY_MAX ∧
        t = { pacCleaned s (cleanKey key) with CUR := 0, IDX := 0, PHASE := P_PAC_CHAR } ∨
       cleanKey key = [] ∧ ∃ pt : List Byte, (pt.length = s.PLEN.toNat ∧ s.PT.holds pt) ∧
        (pt = [] ∨ pt.length ≤ Config.PT_MAX) ∧
        t = { pacCleaned s [] with OUT := s.OUT.writeAll 0 pt, OLEN := s.PLEN }.raise .invalidKey) := by
  simp only [execUPacClean, Res.andThen_eq_next, State.writeBytes_eq_next]
  constructor
  · rintro ⟨key, h1, s1, ⟨h2, rfl⟩, e⟩
    refine ⟨key, State.holds_of_readBytes h1, ?_⟩
    split at e
    · next hk =>
      rw [hk] at e
      simp only [invalidKeyFallback, Res.andThen_eq_next, State.writeBytes_eq_next] at e
      obtain ⟨pt, g1, s2, ⟨g2, rfl⟩, e⟩ := e
      refine .inr ⟨hk, pt, State.holds_of_readBytes g1, ?_, by cases e; rfl⟩
      rw [Nat.zero_add] at g2; exact g2
    · next hk =>
      refine .inl ⟨hk, ?_, by cases e; rfl⟩
      have := h2.resolve_left hk
      rw [Nat.zero_add] at this; exact this
  · rintro ⟨key, ⟨l1, h1⟩, ⟨hk, h2, rfl⟩ | ⟨hk, pt, ⟨l2, h2⟩, h3, rfl⟩⟩
    · exact ⟨key, State.readBytes_of_holds l1.symm h1, _, ⟨.inr (by rw [Nat.zero_add]; exact h2), rfl⟩, by
        rw [if_neg hk]; rfl⟩
    · refine ⟨key, State.readBytes_of_holds l1.symm h1, _, ⟨.inl hk, rfl⟩, ?_⟩
      rw [if_pos hk, hk]
      simp only [invalidKeyFallback, Res.andThen_eq_next, State.writeBytes_eq_next]
      exact ⟨pt, State.readBytes_of_holds l2.symm h2, _, ⟨by rw [Nat.zero_add]; exact h3, rfl⟩, rfl⟩

/-- Go on with the next character, or finish (R223). -/
def pacLoop (s s1 : State) : State :=
  if s.IDX.toNat + 1 < s.PLEN.toNat then { s1 with IDX := s.IDX + 1 } else s1.finish

theorem pacLoop_field {α : Type} (f : State → α) (s s1 : State) (h1 : ∀ (t : State) v, f { t with IDX := v } = f t)
    (h2 : ∀ t : State, f t.finish = f t) : f (pacLoop s s1) = f s1 := by
  unfold pacLoop
  split
  · exact h1 _ _
  · exact h2 _

/-- The state with one character appended to the output. -/
def pacAppended (s : State) (o : Byte) : State :=
  { s with OUT := s.OUT.write s.OLEN.toNat o, OLEN := s.OLEN + 1 }

/-- The state after `U_PAC_CHAR` on letter c with key letter kl. -/
def pacLetterNext (s : State) (c kl : Byte) : State :=
  let p := letterPos (upper c)
  let kpos := letterPos kl
  let q := outputPos (pacModeOfBit (cmdModeBit s.CMD)) p kpos
  let o := letterAt q (isLower c)
  let s2 := (pacAppended s o).emit
    (.pacChar s.IDX.toNat c (.letter (isLower c) p s.CUR.toNat (s.CUR.toNat % s.CLEN.toNat) kl kpos q o))
  { s2 with CUR := Counter.succ .cur s.runRequest s2.draws s.CUR, draws := drawsAfter s2.draws s.CUR }

theorem execUPacChar_eq_next {s t : State} :
    execUPacChar s = .next t ↔ ∃ c, s.PT.read s.IDX.toNat = some c ∧
      (isLetter c = true ∧ s.OLEN.toNat < Config.PT_MAX ∧ s.CLEN.toNat ≠ 0 ∧
        (∃ kl, s.CKEY.read (s.CUR.toNat % s.CLEN.toNat) = some kl ∧ isUpper kl = true ∧
          t = pacLoop s (pacLetterNext s c kl)) ∨
       isLetter c = false ∧ cmdPres s.CMD = true ∧ s.OLEN.toNat < Config.PT_MAX ∧
        t = pacLoop s ((pacAppended s c).emit (.pacChar s.IDX.toNat c .kept)) ∨
       isLetter c = false ∧ cmdPres s.CMD = false ∧
        t = pacLoop s (s.emit (.pacChar s.IDX.toNat c .dropped))) := by
  simp only [execUPacChar, Res.andThen_eq_next, State.readByte_eq_next, State.buf_PT]
  constructor
  · rintro ⟨c, h1, s1, h2, e⟩
    refine ⟨c, h1, ?_⟩
    split at h2
    · next hl =>
      simp only [pacLetter, Res.andThen_eq_next, State.appendOut, State.writeByte_eq_next] at h2
      obtain ⟨⟨ki, kl⟩, h3, s2, ⟨s3, ⟨h4, rfl⟩, e3⟩, e2⟩ := h2
      obtain ⟨g1, rfl, g2, g3⟩ := State.keyLetter_eq_next.mp h3
      exact .inl ⟨hl, h4, g1, kl, g2, g3, by cases e3; cases e2; cases e; rfl⟩
    · next hl =>
      simp only [pacNonLetter] at h2
      split at h2
      · next hp =>
        simp only [Res.andThen_eq_next, State.appendOut, State.writeByte_eq_next] at h2
        obtain ⟨s2, ⟨s3, ⟨h4, rfl⟩, e3⟩, e2⟩ := h2
        exact .inr (.inl ⟨by simpa using hl, hp, h4, by cases e3; cases e2; cases e; rfl⟩)
      · next hp =>
        exact .inr (.inr ⟨by simpa using hl, by simpa using hp, by cases h2; cases e; rfl⟩)
  · rintro ⟨c, h1, ⟨hl, h2, h3, kl, h4, h5, rfl⟩ | ⟨hl, hp, h2, rfl⟩ | ⟨hl, hp, rfl⟩⟩
    · refine ⟨c, h1, pacLetterNext s c kl, ?_, rfl⟩
      rw [if_pos hl]
      simp only [pacLetter, Res.andThen_eq_next, State.appendOut, State.writeByte_eq_next]
      exact ⟨(s.CUR.toNat % s.CLEN.toNat, kl), State.keyLetter_eq_next.mpr ⟨h3, rfl, h4, h5⟩, _,
        ⟨_, ⟨h2, rfl⟩, rfl⟩, rfl⟩
    · refine ⟨c, h1, _, ?_, rfl⟩
      rw [if_neg (by simp [hl])]
      simp only [pacNonLetter, if_pos hp, Res.andThen_eq_next, State.appendOut, State.writeByte_eq_next]
      exact ⟨_, ⟨_, ⟨h2, rfl⟩, rfl⟩, rfl⟩
    · refine ⟨c, h1, _, ?_, rfl⟩
      rw [if_neg (by simp [hl])]
      simp [pacNonLetter, hp]

end Sys2Proof.Machine
end

