-- ==== Sys2Proof/Laws/PerInstr.lean ====
section
/-! SUPPORT. The per-instruction family `TableRow`: an instruction's encoding matches the row of its mnemonic in the
opcode table (30_encoding.md R96 to R99), and no other row. -/

namespace Sys2Proof.Laws.TableRow

/-- A row of the opcode table: mnemonic, width in bits, match value, mask. -/
structure Row where
  mnemonic : String
  nbits : Nat
  value : Nat
  mask : Nat
deriving DecidableEq, Repr

/-- The opcode table. -/
def table : List Row :=
  [⟨"RUN_SPC", 32, 0x00000001, 0xFFFFFFBF⟩, ⟨"RUN_ARX", 32, 0x00000002, 0xFFFFFFFF⟩,
   ⟨"RUN_PAC", 32, 0x00000003, 0xFFFFFFCF⟩] ++
  [⟨"U_VALIDATE", 8, 0x01, 0xFF⟩, ⟨"U_SPC_INIT", 8, 0x10, 0xFF⟩, ⟨"U_KSA_STEP", 8, 0x11, 0xFF⟩,
   ⟨"U_PRGA_INIT", 8, 0x12, 0xFF⟩, ⟨"U_PRGA_STEP", 8, 0x13, 0xFF⟩, ⟨"U_SPC_VERIFY", 8, 0x14, 0xFF⟩] ++
  [⟨"U_ARX_INIT", 8, 0x20, 0xFF⟩, ⟨"U_ARX_COPY", 8, 0x21, 0xFF⟩, ⟨"U_ARX_QR", 8, 0x22, 0xFF⟩,
   ⟨"U_ARX_FINAL", 8, 0x23, 0xFF⟩, ⟨"U_ARX_XOR", 8, 0x24, 0xFF⟩] ++
  [⟨"U_PAC_CLEAN", 8, 0x30, 0xFF⟩, ⟨"U_PAC_CHAR", 8, 0x31, 0xFF⟩]

/-- The row's mnemonic of an instruction. -/
def mnemonic : Instr → String
  | .runSpc _ => "RUN_SPC"
  | .runArx => "RUN_ARX"
  | .runPac _ _ => "RUN_PAC"
  | .uValidate => "U_VALIDATE"
  | .uSpcInit => "U_SPC_INIT"
  | .uKsaStep => "U_KSA_STEP"
  | .uPrgaInit => "U_PRGA_INIT"
  | .uPrgaStep => "U_PRGA_STEP"
  | .uSpcVerify => "U_SPC_VERIFY"
  | .uArxInit => "U_ARX_INIT"
  | .uArxCopy => "U_ARX_COPY"
  | .uArxQr => "U_ARX_QR"
  | .uArxFinal => "U_ARX_FINAL"
  | .uArxXor => "U_ARX_XOR"
  | .uPacClean => "U_PAC_CLEAN"
  | .uPacChar => "U_PAC_CHAR"

/-- The rows that a register value matches. -/
def matching (e : Encoded) : List String :=
  (table.filter fun r => r.nbits == e.nbits && (e.toNat &&& r.mask) == r.value).map Row.mnemonic

/-- The encoding of the instruction matches its row and no other. -/
def Statement (i : Instr) : Prop := matching (encode i) = [mnemonic i]

theorem runSpc (nv : Bool) : Statement (.runSpc nv) := by
  unfold Statement; cases nv <;> decide

theorem runArx : Statement .runArx := by unfold Statement; decide

theorem runPac (mode : PacMode) (preserve : Bool) : Statement (.runPac mode preserve) := by
  unfold Statement; cases mode <;> cases preserve <;> decide

theorem uValidate : Statement .uValidate := by unfold Statement; decide

theorem uSpcInit : Statement .uSpcInit := by unfold Statement; decide

theorem uKsaStep : Statement .uKsaStep := by unfold Statement; decide

theorem uPrgaInit : Statement .uPrgaInit := by unfold Statement; decide

theorem uPrgaStep : Statement .uPrgaStep := by unfold Statement; decide

theorem uSpcVerify : Statement .uSpcVerify := by unfold Statement; decide

theorem uArxInit : Statement .uArxInit := by unfold Statement; decide

theorem uArxCopy : Statement .uArxCopy := by unfold Statement; decide

theorem uArxQr : Statement .uArxQr := by unfold Statement; decide

theorem uArxFinal : Statement .uArxFinal := by unfold Statement; decide

theorem uArxXor : Statement .uArxXor := by unfold Statement; decide

theorem uPacClean : Statement .uPacClean := by unfold Statement; decide

theorem uPacChar : Statement .uPacChar := by unfold Statement; decide

end Sys2Proof.Laws.TableRow
end

