-- ==== Sys2Proof/Laws/Step.lean ====
section
/-! SUPPORT. What a step and a run of steps are, said once. -/

namespace Sys2Proof.Machine

theorem step_of_busy {s : State} (hb : s.STATUS = .busy) (hu : s.undisturbed = true) : step s = sequencerMove s := by
  unfold State.undisturbed at hu
  split at hu
  · next h => simp [step, hb, busyStep, h]
  · next h => simp [step, hb, busyStep, h, Input.preempts]
  · cases hu

theorem step_of_rest {s : State} {inp : Input} {rest : List Input} (hn : s.STATUS ≠ .busy)
    (h : s.inputs = inp :: rest) : step s = actOn inp { s with inputs := rest } := by
  simp [step, hn, restStep, h]

theorem sequencerMove_eq_next {s t : State} :
    sequencerMove s = .next t ↔ ∃ i, decodeUop s.PHASE = .ok i ∧ exec i s = .next t := by
  unfold sequencerMove
  cases h : decodeUop s.PHASE <;> simp

theorem steps_add (a b : Nat) (s : State) : steps (a + b) s = Res.andThen (steps a s) (steps b) := by
  induction a generalizing s with
  | zero => simp [steps]
  | succ a ih =>
    rw [Nat.add_right_comm, steps, steps]
    cases h : step s <;> simp [ih]

theorem undisturbed_of_inputs {s t : State} (h : t.inputs = s.inputs) : t.undisturbed = s.undisturbed := by
  unfold State.undisturbed; rw [h]

end Sys2Proof.Machine
end

