-- ==== Sys2Proof/Tests/Slice0.lean ====
section
/-! SUPPORT. Tests with results taken from the spec (its examples and 95_test_vectors.md), and for each statement with
hypotheses a theorem that shows concrete values meeting them. -/

namespace Sys2Proof.Tests

open Sys2Proof Sys2Proof.Machine

-- One theorem at a time: many short kernel evaluations in parallel cost memory.
set_option Elab.async false

/-! ## Helpers -/

/-- Whether an outcome is a next state that passes a check. -/
def passes (x : Res State) (p : State → Bool) : Bool :=
  match x with
  | .next t => p t
  | .fault _ => false
  | .refused _ => false

/-- Whether an outcome is a certain refusal. -/
def refusedAs (x : Res State) (r : Refusal) : Bool :=
  match x with
  | .next _ => false
  | .fault _ => false
  | .refused q => q == r

/-- Whether an outcome is a certain fault. -/
def faultedAs (x : Res State) (r : Fault) : Bool :=
  match x with
  | .next _ => false
  | .fault q => q == r
  | .refused _ => false

/-- The next state of an outcome, or else the state given. -/
def stateOf (x : Res State) (s : State) : State :=
  match x with
  | .next t => t
  | .fault _ => s
  | .refused _ => s

theorem eq_next_of_passes {x : Res State} (s : State) (h : passes x (fun _ => true) = true) :
    x = .next (stateOf x s) := by
  cases x <;> first | rfl | cases h

theorem exists_next_of_passes {x : Res State} (h : passes x (fun _ => true) = true) : ∃ t, x = .next t :=
  ⟨_, eq_next_of_passes State.reset h⟩

/-- A buffer that holds a byte string from element 0 on. -/
def bytes (l : List Byte) : Memory Byte := l.zipIdx.map fun x => (x.2, x.1)

/-- A state at rest with a request: text, key and N. -/
def request (pt key : List Byte) (n : Word) : State :=
  { State.reset with
    PT := bytes pt, PLEN := BitVec.ofNat 32 pt.length, KEY := bytes key, KLEN := BitVec.ofNat 32 key.length, N := n }

/-- A run in progress, at a phase. -/
def running (s : State) (cmd : Word) (phase : BitVec 8) : State :=
  { s with CMD := cmd, STATUS := .busy, PHASE := phase }

/-- `S` with the elements given at its start. -/
def sOf (l : List Byte) : Vector Byte 256 := Vector.ofFn fun x => l.getD x.val 0

/-- A matrix with the words given at its start. -/
def matrixOf (l : List Word) : Vector Word 16 := Vector.ofFn fun x => l.getD x.val 0

/-! ## Well-formedness: an ill-formed term for each check, which the check refuses -/

theorem test_wellFormed_instructions :
    Instr.wellFormed (.runSpc false) = true ∧ Instr.wellFormed (.runPac .decrypt true) = true ∧
      Instr.wellFormed .uPacChar = true := by decide

theorem test_illFormed_pt_index : HostMove.wellFormed (.writeElem .PT (2 ^ 32) 0) = false := by
  have h := Config.ptSlack.isLt
  exact decide_eq_false (by simp only [ReqBuf.toByteBuf, ByteBuf.extent, Config.PT_MAX]; omega)

theorem test_illFormed_key_index : HostMove.wellFormed (.writeElem .KEY (2 ^ 32) 0) = false := by
  have h := Config.keySlack.isLt
  exact decide_eq_false (by simp only [ReqBuf.toByteBuf, ByteBuf.extent, Config.KEY_MAX]; omega)

theorem test_illFormed_nonce_index :
    HostMove.wellFormed (.writeElem .NONCE 12 0) = false ∧ HostMove.wellFormed (.writeElem .NONCE 11 0) = true := by
  decide

theorem test_illFormed_read_block :
    HostMove.wellFormed (.read (.elem .BLOCK 64)) = false ∧ HostMove.wellFormed (.read (.elem .BLOCK 63)) = true := by
  decide

theorem test_illFormed_read_ckey : HostMove.wellFormed (.read (.elem .CKEY 0)) = false := by decide

theorem test_illFormed_read_record :
    HostMove.wellFormed (.read (.record (2 ^ 32))) = false ∧
      HostMove.wellFormed (.read (.record (2 ^ 32 - 1))) = true := by decide

/-! ## Decoding: every row by a word written out from its pattern (R96 to R99) -/

theorem test_decode_RUN_SPC :
    decodeTableWord 32 0b00000000000000000000000000000001 = some (.runSpc false) ∧
      decodeTableWord 32 0b00000000000000000000000001000001 = some (.runSpc true) := by decide

theorem test_decode_RUN_ARX : decodeTableWord 32 0b00000000000000000000000000000010 = some .runArx := by decide

theorem test_decode_RUN_PAC :
    decodeTableWord 32 0b00000000000000000000000000000011 = some (.runPac .encrypt false) ∧
      decodeTableWord 32 0b00000000000000000000000000010011 = some (.runPac .decrypt false) ∧
      decodeTableWord 32 0b00000000000000000000000000100011 = some (.runPac .encrypt true) ∧
      decodeTableWord 32 0b00000000000000000000000000110011 = some (.runPac .decrypt true) := by decide

theorem test_decode_U_VALIDATE : decodeTableWord 8 0b00000001 = some .uValidate := by decide

theorem test_decode_U_SPC_INIT : decodeTableWord 8 0b00010000 = some .uSpcInit := by decide

theorem test_decode_U_KSA_STEP : decodeTableWord 8 0b00010001 = some .uKsaStep := by decide

theorem test_decode_U_PRGA_INIT : decodeTableWord 8 0b00010010 = some .uPrgaInit := by decide

theorem test_decode_U_PRGA_STEP : decodeTableWord 8 0b00010011 = some .uPrgaStep := by decide

theorem test_decode_U_SPC_VERIFY : decodeTableWord 8 0b00010100 = some .uSpcVerify := by decide

theorem test_decode_U_ARX_INIT : decodeTableWord 8 0b00100000 = some .uArxInit := by decide

theorem test_decode_U_ARX_COPY : decodeTableWord 8 0b00100001 = some .uArxCopy := by decide

theorem test_decode_U_ARX_QR : decodeTableWord 8 0b00100010 = some .uArxQr := by decide

theorem test_decode_U_ARX_FINAL : decodeTableWord 8 0b00100011 = some .uArxFinal := by decide

theorem test_decode_U_ARX_XOR : decodeTableWord 8 0b00100100 = some .uArxXor := by decide

theorem test_decode_U_PAC_CLEAN : decodeTableWord 8 0b00110000 = some .uPacClean := by decide

theorem test_decode_U_PAC_CHAR : decodeTableWord 8 0b00110001 = some .uPacChar := by decide

/-- The illegal words of 95_test_vectors.md V15 and P4. -/
theorem test_decode_rejects_illegal_words :
    ([0x00000000, 0x00000004, 0x0000000f, 0x00000081, 0x80000002, 0x00000011, 0x00000021, 0x00000042, 0x00000012,
      0x00000043, 0x00000061].map (decodeTableWord 32)).all (· == none) = true := by decide

/-- The rest codes and a code without a row (R99). -/
theorem test_decode_rejects_phases :
    decodeUop 0x00 = .error (.restPhase 0x00) ∧ decodeUop 0xF0 = .error (.restPhase 0xF0) ∧
      decodeUop 0xF1 = .error (.restPhase 0xF1) ∧ decodeUop 0x02 = .error (.unassignedPhase 0x02) := by decide

/-! ## The host's moves, commands and `U_VALIDATE` -/

/-- The example of R122. -/
theorem test_runSpc :
    passes (exec (.runSpc true) State.reset) (fun t => t.STATUS == .busy && t.PHASE == 0x01 && t.CMD == 0x41) =
      true := by decide +kernel

/-- H_START clears the results of the run before (R122, R285). -/
theorem test_runArx_clears :
    passes (exec .runArx { State.reset with STATUS := .done, PHASE := 0xF0, OLEN := 5, TLEN := 7, VERIFY_OK := true })
      (fun t => t.CMD == 0x2 && t.OLEN == 0 && t.TLEN == 0 && t.VERIFY_OK == false) = true := by decide +kernel

theorem test_runPac :
    passes (exec (.runPac .decrypt true) State.reset) (fun t => t.CMD == 0x33 && t.PHASE == 0x01) = true := by
  decide +kernel

/-- The example of R126, with one byte of text. -/
theorem test_uValidate_dispatches :
    passes (exec .uValidate (running (request [0x41] [0x4b, 0x45, 0x59] 256) 0x41 0x01)) (fun t => t.PHASE == 0x10) =
      true := by decide +kernel

/-- 95_test_vectors.md V15: N = 0x80000000 raises `InvalidParameter`; V16: N = 257 is refused. -/
theorem test_uValidate_stateSize :
    passes (exec .uValidate (running (request [0x41] [0x4b] 0x80000000) 0x41 0x01))
      (fun t => t.ERR == .invalidParameter && t.STATUS == .error && t.PHASE == 0xF1) = true ∧
    refusedAs (exec .uValidate (running (request [0x41] [0x4b] 257) 0x41 0x01)) (.notAdmitted .stateSize) = true := by
  decide +kernel

/-- R283, U10: a length register that covers an element never written; here `KEY[1]`, which RUN_SPC with N = 1 would not
read. An illegal word comes first (R126, V15). -/
theorem test_uValidate_unwritten :
    refusedAs (exec .uValidate { running (request [0x41] [0x6b] 1) 0x41 0x01 with KLEN := 2 }) (.requestUnwritten .KEY) =
      true ∧
    passes (exec .uValidate { running (request [0x41] [0x6b] 1) 0x61 0x01 with KLEN := 2 })
      (fun t => t.ERR == .illegalCommand) = true := by decide +kernel

/-- R281: an H_START issued at once after reset with a legal command ends in `EmptyInput`. -/
theorem test_start_after_reset :
    passes (steps 2 (State.reset.withFetchWord 32 0x41)) (fun t => t.STATUS == .error && t.ERR == .emptyInput) =
      true := by decide +kernel

/-! ## The SPC engine -/

/-- The example of R151. -/
theorem test_uSpcInit :
    passes (exec .uSpcInit (running (request [0x48] [0x41, 0x42] 8) 0x41 0x10))
      (fun t => sPrefix t.S 8 == [0, 1, 2, 3, 4, 5, 6, 7] && t.J == 0 && t.PHASE == 0x11) = true := by decide +kernel

/-- Iteration 3 of 95_test_vectors.md V9. -/
theorem test_uKsaStep :
    passes (exec .uKsaStep
        { running (request [0x48] [0x41, 0x42] 8) 0x41 0x11 with S := sOf [1, 3, 6, 0, 4, 5, 2, 7], J := 6, IDX := 3 })
      (fun t => sPrefix t.S 8 == [0, 3, 6, 1, 4, 5, 2, 7] && t.J == 0 && t.IDX == 4 && t.PHASE == 0x11) = true := by
  decide +kernel

/-- The last iteration of 95_test_vectors.md V9. -/
theorem test_uKsaStep_last :
    passes (exec .uKsaStep
        { running (request [0x48] [0x41, 0x42] 8) 0x41 0x11 with S := sOf [0, 3, 6, 4, 5, 1, 2, 7], J := 6, IDX := 7 })
      (fun t => t.TRACE.read 0 == some (.ksaStep 7 66 [0, 3, 6, 4, 5, 1, 2, 7] 7 [0, 3, 6, 4, 5, 1, 2, 7]) &&
        t.PHASE == 0x12) = true := by decide +kernel

/-- R153. -/
theorem test_uPrgaInit :
    passes (exec .uPrgaInit { running (request [0x48] [0x41] 8) 0x41 0x12 with I := 5, J := 7, IDX := 7 })
      (fun t => t.I == 0 && t.J == 0 && t.IDX == 0 && t.PHASE == 0x13) = true := by decide +kernel

/-- The example of R154, with one byte of text, and its record in 95_test_vectors.md V9. -/
theorem test_uPrgaStep :
    passes (exec .uPrgaStep
        { running (request [0x48] [0x41, 0x42] 8) 0x41 0x13 with S := sOf [0, 3, 6, 4, 5, 1, 2, 7] })
      (fun t => t.TRACE.read 0 == some (.prgaStep 0 1 3 4 3 7 7 72 79 [0, 4, 6, 3, 5, 1, 2, 7]) &&
        t.OUT.read 0 == some 0x4F && t.KS.read 0 == some 7 && t.OLEN == 1 && t.PHASE == 0x14) = true := by
  decide +kernel

/-- The first byte of the example of R155. -/
theorem test_uSpcVerify :
    passes (exec .uSpcVerify
        { running (request [0x48] [0x41, 0x42] 8) 0x41 0x14 with OUT := bytes [0x4F], KS := bytes [7] })
      (fun t => t.REC.read 0 == some 0x48 && t.VERIFY_OK && t.STATUS == .done && t.PHASE == 0xF0) = true := by
  decide +kernel

/-- A byte that does not match leaves `VERIFY_OK` at 0 (R155). -/
theorem test_uSpcVerify_fails :
    passes (exec .uSpcVerify
        { running (request [0x48] [0x41, 0x42] 8) 0x41 0x14 with OUT := bytes [0x4F], KS := bytes [6] })
      (fun t => t.VERIFY_OK == false && t.STATUS == .done) = true := by decide +kernel

/-! ## The ARX engine -/

/-- The constants are `le32` of the ASCII codes of "expand 32-byte k" (R65, G1). -/
theorem test_constants :
    le32 0x65 0x78 0x70 0x61 = C0 ∧ le32 0x6e 0x64 0x20 0x33 = C1 ∧ le32 0x32 0x2d 0x62 0x79 = C2 ∧
      le32 0x74 0x65 0x20 0x6b = C3 := by decide

/-- The rotations of 95_test_vectors.md V8. -/
theorem test_rotl32 :
    rotl32 0x80000001 16 = 0x00018000 ∧ rotl32 0x80000001 12 = 0x00001800 ∧ rotl32 0x80000001 8 = 0x00000180 ∧
      rotl32 0x80000001 7 = 0x000000c0 := by decide

/-- The twelve values of 95_test_vectors.md V1. -/
theorem test_qrSteps :
    qrSteps 0x11111111 0x01020304 0x9b8d6f43 0x01234567 =
      #v[0x12131415, 0x13305172, 0x51721330, 0xecff8273, 0xedfd8177, 0xd8177edf, 0xea2a92f4, 0xbb5881c4, 0x5881c4bb,
        0x4581472e, 0x9d9639f1, 0xcb1cf8ce] := by decide

/-- The matrix of 95_test_vectors.md V7: key "KEY", nonce "N". -/
theorem test_uArxInit :
    passes (exec .uArxInit
        { running (request [0x41] [0x4b, 0x45, 0x59] 0) 0x2 0x20 with NONCE := bytes [0x4e], NLEN := 1 })
      (fun t => t.MI == #v[0x61707865, 0x3320646e, 0x79622d32, 0x6b206574, 0x0059454b, 0, 0, 0, 0, 0, 0, 0, 1, 0x4e, 0,
        0] && t.PHASE == 0x21) = true := by decide +kernel

/-- The example of R186. -/
theorem test_uArxCopy :
    passes (exec .uArxCopy { running State.reset 0x2 0x21 with MI := matrixOf [1, 2, 3], QN := 79 })
      (fun t => t.MW == matrixOf [1, 2, 3] && t.QN == 0 && t.PHASE == 0x22) = true := by decide +kernel

/-- The example of R187: `QN` = 0, zero key. -/
theorem test_uArxQr :
    passes (exec .uArxQr
        { running State.reset 0x2 0x22 with
          MW := matrixOf [0x61707865, 0x3320646e, 0x79622d32, 0x6b206574, 0, 0, 0, 0, 0, 0, 0, 0, 1] })
      (fun t => t.MW == matrixOf [0xa7877feb, 0x3320646e, 0x79622d32, 0x6b206574, 0xcafd648e, 0, 0, 0, 0x5b82fd4f, 0, 0,
        0, 0xe31e9bdf] && t.QN == 1 && t.PHASE == 0x22) = true := by decide +kernel

/-- The matrices after quarter-rounds 78 and 79 of 95_test_vectors.md V3: the group is (3, 4, 9, 14). -/
theorem test_uArxQr_last :
    passes (exec .uArxQr
        { running State.reset 0x2 0x22 with
          MW := matrixOf [1, 2, 3, 0x615fcf61, 0x6c79441b, 5, 6, 7, 8, 0x164b37d2, 10, 11, 12, 13, 0x00c71e84, 15]
          QN := 79 })
      (fun t => t.MW == matrixOf [1, 2, 3, 0xa1e7c7ff, 0xa0290fcb, 5, 6, 7, 8, 0x434ee69c, 10, 11, 12, 13, 0x1f0ae1ac,
        15] && t.QN == 79 && t.PHASE == 0x23) = true := by decide +kernel

/-- The example of R189, and word 12 of 95_test_vectors.md V3. -/
theorem test_uArxFinal :
    passes (exec .uArxFinal
        { running State.reset 0x2 0x23 with
          MW := matrixOf [0x5d768f3a, 0, 0, 0, 0, 0, 0, 0, 0, 0, 0, 0, 0x281fed30]
          MI := matrixOf [0x61707865, 0, 0, 0, 0, 0, 0, 0, 0, 0, 0, 0, 1] })
      (fun t => t.BLOCK.take 4 == [(0, 0x9f), (1, 0x07), (2, 0xe7), (3, 0xbe)] &&
        t.BLOCK.read 48 == some 0x31 && t.BLOCK.read 51 == some 0x28 && t.BLOCK.length == 64 && t.PHASE == 0x24) =
      true := by decide +kernel

/-- The example of R190. -/
theorem test_uArxXor :
    passes (exec .uArxXor { running (request [0x48] [0] 0) 0x2 0x24 with BLOCK := bytes [0x9f] })
      (fun t => t.OUT.read 0 == some 0xd7 && t.KS.read 0 == some 0x9f && t.KSLEN == 1 && t.STATUS == .done) = true := by
  decide +kernel

/-! ## The PAC engine -/

/-- The classes at the edges of the letter ranges (R15, R221). -/
theorem test_isLetter :
    ([0x40, 0x41, 0x5A, 0x5B, 0x60, 0x61, 0x7A, 0x7B, 0x80, 0xFF].map isLetter) =
      [false, true, true, false, false, true, true, false, false, false] := by decide

/-- The key of 95_test_vectors.md V13: "k3y-Z" gives "KYZ". -/
theorem test_uPacClean :
    passes (exec .uPacClean (running (request [0x48] [0x6b, 0x33, 0x79, 0x2d, 0x5a] 0) 0x23 0x30))
      (fun t => t.CKEY == bytes [0x4b, 0x59, 0x5a] && t.CLEN == 3 && t.PHASE == 0x31) = true := by decide +kernel

/-- The fallback of 95_test_vectors.md P5, with one byte of text. -/
theorem test_uPacClean_invalidKey :
    passes (exec .uPacClean (running (request [0x20] [0x31, 0x32] 0) 0x3 0x30))
      (fun t => t.ERR == .invalidKey && t.STATUS == .error && t.OUT.read 0 == some 0x20 && t.OLEN == 1 &&
        t.TRACE.read 0 == some (.pacClean [])) = true := by decide +kernel

/-- The example of R223: 't' with key letter 'E', encrypting; its record in 95_test_vectors.md V4. -/
theorem test_uPacChar :
    passes (exec .uPacChar
        { running (request [0x74] [0x4c] 0) 0x23 0x31 with
          CKEY := bytes [0x4c, 0x45, 0x4d, 0x4f, 0x4e], CLEN := 5, CUR := 1 })
      (fun t => t.TRACE.read 0 == some (.pacChar 0 0x74 (.letter true 19 1 1 0x45 4 23 0x78)) &&
        t.OUT.read 0 == some 0x78 && t.CUR == 2 && t.STATUS == .done) = true := by decide +kernel

/-- 95_test_vectors.md V14, decrypting: 'A' with key letter 'B' gives 'Z'; V12: a non-letter is dropped. -/
theorem test_uPacChar_decrypts_and_drops :
    passes (exec .uPacChar { running (request [0x41] [0x62] 0) 0x33 0x31 with CKEY := bytes [0x42], CLEN := 1 })
      (fun t => t.OUT.read 0 == some 0x5A) = true ∧
    passes (exec .uPacChar { running (request [0x20] [0x62] 0) 0x03 0x31 with CKEY := bytes [0x42], CLEN := 1 })
      (fun t => t.OLEN == 0 && t.CUR == 0 && t.TRACE.read 0 == some (.pacChar 0 0x20 .dropped)) = true := by
  decide +kernel

/-! ## Trace records -/

/-- The tags of R104 to R112. -/
theorem test_tags :
    [TraceRecord.ksaStep 0 0 [] 0 [], .prgaStep 0 0 0 0 0 0 0 0 0 [], .spcVerify [] true, .arxInit (matrixOf []),
      .arxQr 0 0 0 0 0 0 0 0 0 (qrSteps 0 0 0 0) 0 0 0 0 (matrixOf []), .arxFinal (matrixOf []) (matrixOf []) [],
      .arxXor 0 0 0 0 0, .pacClean [], .pacChar 0 0 .kept].map TraceRecord.tag =
      [0x11, 0x13, 0x14, 0x20, 0x22, 0x23, 0x24, 0x30, 0x31] := by decide

/-! ## States that meet the invariant -/

/-- `U_VALIDATE` is next. -/
theorem inv_of_validating {s : State} (hm : MemoryOk s) (hp : s.PHASE = P_VALIDATE) (hs : s.STATUS = .busy)
    (he : s.ERR = .noError) (ho : s.OLEN = 0) (hk : s.KSLEN = 0) (ht : s.TLEN = 0) (hv : s.VERIFY_OK = false) :
    Inv s where
  memory := hm
  status := by
    refine ⟨?_, ?_, ?_, ?_, ?_⟩ <;> simp [hs, hp, he]
    exact ⟨.uValidate, by decide⟩
  results := by
    constructor <;> simp [hs, ho, hk, ht, hv, Memory.filledBelow]
  fresh := by constructor <;> simp [ho, hk, ht]
  spc := by constructor <;> simp [hp]
  arx := by constructor <;> simp [hp]
  pac := by constructor <;> simp [hp]

/-- No run since reset. -/
theorem inv_of_idle {s : State} (hm : MemoryOk s) (hp : s.PHASE = P_IDLE) (hs : s.STATUS = .idle)
    (he : s.ERR = .noError) (ho : s.OLEN = 0) (hk : s.KSLEN = 0) (ht : s.TLEN = 0) (hv : s.VERIFY_OK = false) :
    Inv s where
  memory := hm
  status := by
    refine ⟨?_, ?_, ?_, ?_, ?_⟩ <;> simp [hs, hp, he]
    intro i h
    cases h
  results := by
    constructor <;> simp [hs, ho, hk, ht, hv, Memory.filledBelow]
  fresh := by constructor <;> simp [ho, hk, ht]
  spc := by constructor <;> simp [hp]
  arx := by constructor <;> simp [hp]
  pac := by constructor <;> simp [hp]

/-- `MemoryOk` as a check. -/
def memoryCheck (s : State) : Bool :=
  [ByteBuf.PT, .KEY, .NONCE, .BLOCK, .CKEY, .KS, .OUT, .REC].all (fun b =>
    decide (s.buf b).wf && (s.buf b).all fun p => decide (p.1 < b.extent)) &&
  decide s.TRACE.wf && s.TRACE.all fun p => decide (p.1 < 2 ^ 32)

theorem memoryOk_of_check {s : State} (h : memoryCheck s = true) : MemoryOk s := by
  simp only [memoryCheck, List.all_cons, List.all_nil, Bool.and_eq_true, decide_eq_true_eq, List.all_eq_true] at h
  obtain ⟨⟨⟨h1, h2, h3, h4, h5, h6, h7, h8, -⟩, hw⟩, ht⟩ := h
  refine ⟨fun b => ?_, fun b => ?_, hw, fun p hp => ht p hp⟩
  · cases b
    exacts [h1.1, h2.1, h3.1, h4.1, h5.1, h6.1, h7.1, h8.1]
  · cases b
    exacts [h1.2, h2.2, h3.2, h4.2, h5.2, h6.2, h7.2, h8.2]

theorem filledBelow_zero {α : Type} (m : Memory α) : m.filledBelow 0 := fun _ h => absurd h (Nat.not_lt_zero _)

theorem filledBelow_one {α : Type} {m : Memory α} {v : α} (h : m.read 0 = some v) : m.filledBelow 1 := by
  intro k hk
  have : k = 0 := by omega
  subst this; exact ⟨v, h⟩

theorem filledBelow_two {α : Type} {m : Memory α} {v w : α} (h : m.read 0 = some v) (h' : m.read 1 = some w) :
    m.filledBelow 2 := by
  intro k hk
  have : k = 0 ∨ k = 1 := by omega
  rcases this with e | e <;> subst e
  exacts [⟨v, h⟩, ⟨w, h'⟩]

/-- A request of one text byte and one key byte after H_START, `U_VALIDATE` being next. -/
def validating (n cmd : Word) (inputs : List Input) : State :=
  { running (request [0x41] [0x6b] n) cmd P_VALIDATE with inputs := inputs }

theorem validating_inv (n cmd : Word) (inputs : List Input) : Inv (validating n cmd inputs) := by
  have h : memoryCheck (request [0x41] [0x6b] 0) = true := by decide +kernel
  have h' : memoryCheck (validating n cmd inputs) = memoryCheck (request [0x41] [0x6b] 0) := rfl
  exact inv_of_validating (memoryOk_of_check (h'.trans h)) rfl rfl rfl rfl rfl rfl rfl

/-- `U_SPC_VERIFY` is next, in the run of 95_test_vectors.md V10 with N = 1, cut to one byte. -/
def verifying : State :=
  { running (request [0x41] [0x6b] 1) 0x41 P_SPC_VERIFY with
    KS := bytes [0], OUT := bytes [0x41], KSLEN := 1, OLEN := 1, TLEN := 2
    TRACE := [(0, .ksaStep 0 107 [0] 0 [0]), (1, .prgaStep 0 0 0 0 0 0 0 65 65 [0])] }

theorem verifying_inv : Inv verifying where
  memory := memoryOk_of_check (by decide +kernel)
  status := by
    refine ⟨by decide, ?_, by decide, by decide, by decide⟩
    exact ⟨fun _ => ⟨.uSpcVerify, by decide⟩, fun _ => rfl⟩
  results := by
    refine ⟨filledBelow_one (v := 0x41) rfl, filledBelow_one (v := 0) rfl,
      filledBelow_two rfl rfl, (fun h => nomatch h), (fun h => nomatch h), by decide⟩
  fresh := ⟨by decide, by decide⟩
  spc := by
    refine ⟨fun _ => ⟨⟨by decide, by decide, by decide +kernel, by decide, by decide, by decide⟩, by decide, by decide⟩,
      fun _ => ?_, by decide, fun h => absurd h (by decide), fun _ => ⟨rfl, rfl, ?_⟩⟩
    · unfold isPermutation
      have : sPrefix verifying.S verifying.N.toNat = (List.range verifying.N.toNat).map (BitVec.ofNat 8) := by
        decide +kernel
      rw [this]
    · intro k hk
      have : k = 0 := by have : k < 1 := hk; omega
      subst this; exact ⟨_, _, rfl, rfl, rfl⟩
  arx := ⟨fun h => absurd h (by decide), by decide, fun h => absurd h (by decide)⟩
  pac := ⟨fun h => absurd h (by decide), fun h => absurd h (by decide)⟩

/-- `U_VALIDATE` is next in a RUN_ARX request whose nonce length is 1, and one operand has not been written. -/
def unwrittenIn (b : ByteBuf) : State :=
  { validating 1 0x2 [] with NONCE := bytes [9], NLEN := 1 }.setBuf b []

theorem unwrittenIn_inv (b : ByteBuf) (hb : b ∈ [ByteBuf.PT, .KEY, .NONCE]) : Inv (unwrittenIn b) := by
  simp only [List.mem_cons, List.not_mem_nil, or_false] at hb
  rcases hb with rfl | rfl | rfl <;>
    exact inv_of_validating (memoryOk_of_check (by decide +kernel)) rfl rfl rfl rfl rfl rfl rfl

/-- No run since reset, and what the host does next. -/
def idle (inputs : List Input) : State := { State.reset with inputs := inputs }

theorem idle_inv (inp : Input) (rest : List Input) : Inv (idle (inp :: rest)) := by
  have h : memoryCheck State.reset = true := by decide
  have h' : memoryCheck (idle (inp :: rest)) = memoryCheck State.reset := rfl
  exact inv_of_idle (memoryOk_of_check (h'.trans h)) rfl rfl rfl rfl rfl rfl rfl

/-! ## Witnesses: for each statement with hypotheses, values that meet them -/

theorem eq_refused_of_refusedAs {x : Res State} {r : Refusal} (h : refusedAs x r = true) : x = .refused r := by
  cases x with
  | next _ => cases h
  | fault _ => cases h
  | refused q => exact congrArg _ (eq_of_beq h)

theorem holds_of_all {m : Memory Byte} {l : List Byte}
    (h : (List.range l.length).all (fun k => m.read k == l[k]?) = true) : m.holds l := by
  intro k hk
  exact eq_of_beq (List.all_eq_true.mp h k (List.mem_range.mpr hk))

theorem witness_ResetEvent :
    ∃ (s : State) (rest : List Input), s.STATUS = .busy ∧ s.inputs = .reset :: rest :=
  ⟨validating 1 0x41 [.reset], [], rfl, rfl⟩

theorem witness_EveryStepKeepsTheInvariant : ∃ s t, Inv s ∧ step s = .next t :=
  ⟨verifying, _, verifying_inv, eq_next_of_passes State.reset (by decide +kernel)⟩

theorem witness_InvariantStatesNeverFault : ∃ s, Inv s ∧ s.STATUS = .busy := ⟨verifying, verifying_inv, rfl⟩

theorem witness_RefusalsAreTheSpecsOwn :
    (∃ s, Inv s ∧ step s = .refused (.notAdmitted .stateSize)) ∧
    (∀ b ∈ [ByteBuf.PT, .KEY, .NONCE], ∃ s, Inv s ∧ step s = .refused (.requestUnwritten b)) ∧
    (∃ s, Inv s ∧ step s = .refused .hostMoveWhileBusy) ∧
    (∀ m ∈ [HostMove.read (.elem .CKEY 0), .read (.elem .OUT 0), .read (.record 0), .read (.elem .NONCE 12),
        .writeElem .NONCE 12 0],
      ∃ s, Inv s ∧ s.inputs = [.host m] ∧ step s = .refused .noSuchHostMove) ∧
    (∃ s, Inv s ∧ s.STATUS ≠ .busy ∧ step s = .refused (.requestUnwritten .NONCE)) := by
  refine ⟨⟨validating 257 0x41 [], validating_inv _ _ _, eq_refused_of_refusedAs (by decide +kernel)⟩,
    fun b hb => ⟨unwrittenIn b, unwrittenIn_inv b hb, ?_⟩,
    ⟨validating 1 0x41 [.hostNow (.writeReg .N 0)], validating_inv _ _ _, eq_refused_of_refusedAs (by decide +kernel)⟩,
    fun m hm => ⟨idle [.host m], idle_inv _ _, rfl, ?_⟩,
    ⟨idle [.hostNow (.read (.elem .NONCE 11))], idle_inv _ _, by decide, eq_refused_of_refusedAs (by decide +kernel)⟩⟩
  · simp only [List.mem_cons, List.not_mem_nil, or_false] at hb
    rcases hb with rfl | rfl | rfl <;> exact eq_refused_of_refusedAs (by decide +kernel)
  · simp only [List.mem_cons, List.not_mem_nil, or_false] at hm
    rcases hm with rfl | rfl | rfl | rfl | rfl <;> exact eq_refused_of_refusedAs (by decide +kernel)

theorem witness_StepRunsTheSelectedMicroOperation (inputs : List Input) :
    ∃ (s : State) (i : Instr), s.STATUS = .busy ∧ decode (.uop s.PHASE) = .ok i ∧ s.inputs = inputs :=
  ⟨validating 1 0x41 inputs, .uValidate, rfl, rfl, rfl⟩

theorem witness_StepRunsTheCommandTheHostWrites :
    ∃ (s : State) (w : Word) (rest : List Input) (i : Instr), s.STATUS ≠ .busy ∧
      s.inputs = .host (.start w) :: rest ∧ decode (.cmd w) = .ok i :=
  ⟨idle [.host (.start 0x41)], 0x41, [], .runSpc true, by decide, rfl, by decide⟩

theorem witness_CommandsStartTheirRun : State.reset.STATUS ≠ .busy := by decide

theorem witness_CommandsAreRefusedDuringARun :
    ∃ (s : State) (i : Instr) (w : Word), encode i = .cmd w ∧ s.STATUS = .busy :=
  ⟨verifying, .runSpc true, 0x41, by decide, rfl⟩

/-- A request of key and nonce lengths at the bounds of R127 for RUN_ARX. -/
def fullArx : State := { request [0x41] (List.replicate 32 7) 0 with NONCE := bytes (List.replicate 12 9), NLEN := 12 }

theorem validating_admitted {n cmd : Word} (h : cmdOp cmd = 1 → n.toInt ≤ 256) (h2 : cmdOp cmd ≠ 2) :
    AdmittedRequest (validating n cmd []) :=
  ⟨by show 1 ≤ Config.PT_MAX; decide +kernel, by show 1 ≤ Config.KEY_MAX; decide +kernel, fun e _ => h e,
    fun e => absurd e h2, fun e => absurd e h2⟩

theorem validating_written {n cmd : Word} (h2 : cmdOp cmd ≠ 2) (inputs : List Input) :
    WrittenRequest (validating n cmd inputs) :=
  ⟨filledBelow_one (v := 0x41) rfl, filledBelow_one (v := 0x6b) rfl, fun e => absurd e h2⟩

theorem filledBelow_of_check {α : Type} {m : Memory α} {n : Nat} (h : m.filled n = true) : m.filledBelow n :=
  Memory.filled_iff.mp h

theorem fullArx_written : WrittenRequest (running fullArx 0x2 P_VALIDATE) :=
  ⟨filledBelow_of_check (by decide), filledBelow_of_check (by decide +kernel),
    fun _ => filledBelow_of_check (by decide +kernel)⟩

theorem fullArx_admitted : AdmittedRequest (running fullArx 0x2 P_VALIDATE) :=
  ⟨by decide +kernel, by decide +kernel, fun h => absurd h (by decide), fun _ => by decide, fun _ => by decide⟩

theorem witness_ValidateChecksInOrderAndDispatches :
    (∃ s : State, legalCommand s.CMD = false) ∧
    (∃ s : State, legalCommand s.CMD = true ∧ AdmittedRequest s ∧ WrittenRequest s ∧ s.PLEN = 0) ∧
    (∃ s : State, legalCommand s.CMD = true ∧ AdmittedRequest s ∧ WrittenRequest s ∧ s.KLEN = 0) ∧
    (∃ s : State, legalCommand s.CMD = true ∧ AdmittedRequest s ∧ WrittenRequest s ∧ s.PLEN ≠ 0 ∧ s.KLEN ≠ 0 ∧ cmdOp s.CMD = 1 ∧
      cmdNv s.CMD = false ∧ s.N = 256) ∧
    (∀ n ∈ [0x00000000#32, 0x80000000#32, 0xFFFFFFFF#32], ∃ s : State, legalCommand s.CMD = true ∧ AdmittedRequest s ∧ WrittenRequest s ∧
      s.PLEN ≠ 0 ∧ s.KLEN ≠ 0 ∧ cmdOp s.CMD = 1 ∧ s.N = n ∧ (s.N = 0 ∨ s.N.msb = true)) ∧
    (∀ n ∈ [1#32, 256#32], ∃ s : State, legalCommand s.CMD = true ∧ AdmittedRequest s ∧ WrittenRequest s ∧ s.PLEN ≠ 0 ∧ s.KLEN ≠ 0 ∧
      cmdOp s.CMD = 1 ∧ cmdNv s.CMD = true ∧ s.N = n ∧ s.N ≠ 0 ∧ s.N.msb = false) ∧
    (∃ s : State, legalCommand s.CMD = true ∧ AdmittedRequest s ∧ WrittenRequest s ∧ s.PLEN ≠ 0 ∧ s.KLEN = 32 ∧ s.NLEN = 12 ∧
      cmdOp s.CMD = 2) ∧
    (∃ s : State, legalCommand s.CMD = true ∧ AdmittedRequest s ∧ WrittenRequest s ∧ s.PLEN ≠ 0 ∧ s.KLEN ≠ 0 ∧ cmdOp s.CMD = 3) := by
  refine ⟨⟨running State.reset 0x61 P_VALIDATE, by decide⟩,
    ⟨{ validating 1 0x41 [] with PLEN := 0 }, by decide, ⟨by decide +kernel, by decide +kernel, by decide, by decide,
      by decide⟩, ⟨filledBelow_of_check (by decide), filledBelow_of_check (by decide), fun e => absurd e (by decide)⟩, rfl⟩,
    ⟨{ validating 1 0x41 [] with KLEN := 0 }, by decide, ⟨by decide +kernel, by decide +kernel, by decide, by decide,
      by decide⟩, ⟨filledBelow_of_check (by decide), filledBelow_of_check (by decide), fun e => absurd e (by decide)⟩, rfl⟩,
    ⟨validating 256 0x01 [], by decide, validating_admitted (by decide) (by decide), validating_written (by decide) [], by decide, by decide, by decide,
      by decide, rfl⟩, ?_, ?_,
    ⟨running fullArx 0x2 P_VALIDATE, by decide, fullArx_admitted, fullArx_written, by decide, rfl, rfl, by decide⟩,
    ⟨validating 0 0x33 [], by decide, validating_admitted (by decide) (by decide), validating_written (by decide) [], by decide, by decide, by decide⟩⟩
  · intro n hn
    simp only [List.mem_cons, List.not_mem_nil, or_false] at hn
    refine ⟨validating n 0x41 [], (by decide : legalCommand 0x41 = true), validating_admitted (fun _ => ?_) (by decide),
      validating_written (by decide) [],
      (by decide : (1 : Word) ≠ 0), (by decide : (1 : Word) ≠ 0), (by decide : cmdOp 0x41 = 1), rfl, ?_⟩ <;>
      rcases hn with rfl | rfl | rfl <;> decide
  · intro n hn
    simp only [List.mem_cons, List.not_mem_nil, or_false] at hn
    refine ⟨validating n 0x41 [], (by decide : legalCommand 0x41 = true), validating_admitted (fun _ => ?_) (by decide),
      validating_written (by decide) [],
      (by decide : (1 : Word) ≠ 0), (by decide : (1 : Word) ≠ 0), (by decide : cmdOp 0x41 = 1),
      (by decide : cmdNv 0x41 = true), rfl, ?_, ?_⟩ <;> rcases hn with rfl | rfl <;> decide

theorem witness_ValidateRefusesWhatIsNotAdmitted :
    (∃ s : State, legalCommand s.CMD = true ∧ ¬ AdmittedRequest s ∧ s.N = 257) ∧
    (∃ s : State, legalCommand s.CMD = true ∧ ¬ AdmittedRequest s ∧ s.KLEN = 33) ∧
    (∃ s : State, legalCommand s.CMD = true ∧ ¬ AdmittedRequest s ∧ s.NLEN = 13) :=
  ⟨⟨validating 257 0x41 [], by decide, fun h => absurd (h.stateSize (by decide) (by decide)) (by decide), rfl⟩,
   ⟨{ validating 0 0x2 [] with KLEN := 33 }, by decide, fun h => absurd (h.arxKey (by decide)) (by decide), rfl⟩,
   ⟨{ validating 0 0x2 [] with NLEN := 13 }, by decide, fun h => absurd (h.arxNonce (by decide)) (by decide), rfl⟩⟩

theorem witness_SpcInitWritesTheIdentity :
    ∀ n ∈ [0, 1, 256], ∃ s : State, s.N.toNat ≤ 256 ∧ s.N.toNat = n := by
  intro n hn
  simp only [List.mem_cons, List.not_mem_nil, or_false] at hn
  refine ⟨request [] [] (BitVec.ofNat 32 n), ?_, ?_⟩ <;> rcases hn with rfl | rfl | rfl <;> decide

/-- `S` as after `U_SPC_INIT` with N = 256. -/
def identity : Vector Byte 256 := Vector.ofFn fun x => BitVec.ofNat 8 x.val

theorem witness_KsaStepAddsSwapsAndTraces :
    ∀ x ∈ [(1, 0), (256, 254), (256, 255)], ∃ (s : State) (n : Nat) (i kb : Byte), s.N.toNat = n ∧ 1 ≤ n ∧ n ≤ 256 ∧
      s.IDX.toNat = i.toNat ∧ i.toNat < n ∧ s.KLEN ≠ 0 ∧ s.KEY.read (s.IDX.toNat % s.KLEN.toNat) = some kb ∧
      n = x.1 ∧ i.toNat = x.2 := by
  intro x hx
  refine ⟨{ request [0x41] [0x6b] (BitVec.ofNat 32 x.1) with IDX := BitVec.ofNat 32 x.2 }, x.1, BitVec.ofNat 8 x.2,
    0x6b, ?_⟩
  simp only [List.mem_cons, List.not_mem_nil, or_false] at hx
  rcases hx with rfl | rfl | rfl <;> decide +kernel

theorem witness_PrgaStepEncryptsOneByte :
    ∀ n ∈ [1, 256], ∃ (s : State) (p : Byte), s.N.toNat = n ∧ 1 ≤ n ∧ n ≤ 256 ∧ s.IDX.toNat + 1 = s.PLEN.toNat ∧
      s.PLEN.toNat ≤ Config.PT_MAX ∧ s.PT.read s.IDX.toNat = some p := by
  intro n hn
  simp only [List.mem_cons, List.not_mem_nil, or_false] at hn
  refine ⟨request [0x41] [0x6b] (BitVec.ofNat 32 n), 0x41, ?_⟩
  rcases hn with rfl | rfl <;> decide +kernel

/-- The first of two text bytes; there is room for two where `PT_MAX` is not 1. -/
theorem witness_PrgaStepEncryptsOneByte_more (h : 2 ≤ Config.PT_MAX) :
    ∃ (s : State) (p : Byte), s.N.toNat = 8 ∧ s.IDX.toNat + 1 < s.PLEN.toNat ∧ s.PLEN.toNat ≤ Config.PT_MAX ∧
      s.PT.read s.IDX.toNat = some p :=
  ⟨request [0x41, 0x42] [0x6b] 8, 0x41, by decide, by decide, h, by decide⟩

theorem witness_SpcVerifyRecoversAndFinishes :
    ∃ (s : State) (out ks pt : List Byte), s.PLEN.toNat ≤ Config.PT_MAX ∧ out.length = s.PLEN.toNat ∧
      ks.length = s.PLEN.toNat ∧ pt.length = s.PLEN.toNat ∧ s.OUT.holds out ∧ s.KS.holds ks ∧ s.PT.holds pt ∧
      s.PLEN ≠ 0 :=
  ⟨verifying, [0x41], [0], [0x41], by decide +kernel, rfl, rfl, rfl, holds_of_all (by decide), holds_of_all (by decide),
    holds_of_all (by decide), by decide⟩

theorem witness_InRunCheckAlwaysSucceeds :
    ∃ s t, Inv s ∧ s.PHASE = P_SPC_VERIFY ∧ exec .uSpcVerify s = .next t :=
  ⟨verifying, _, verifying_inv, rfl, eq_next_of_passes State.reset (by decide +kernel)⟩

/-- The state of 95_test_vectors.md V9 before the key schedule. -/
def scheduling : State := { running (request [0x48] [0x41, 0x42] 8) 0x41 P_KSA with S := identity }

theorem identity_permutation : isPermutation identity 8 := by
  unfold isPermutation
  have : sPrefix identity 8 = (List.range 8).map (BitVec.ofNat 8) := by decide +kernel
  rw [this]

theorem witness_SpcStepsKeepThePermutation :
    ∃ s : State, s.N.toNat = 8 ∧ isPermutation s.S 8 ∧ s.IDX.toNat < 8 ∧ (∃ t, exec .uSpcInit s = .next t) ∧
      (∃ t, exec .uKsaStep s = .next t) ∧ ∃ t, exec .uPrgaStep s = .next t :=
  ⟨scheduling, by decide, identity_permutation, by decide, exists_next_of_passes (by decide +kernel),
    exists_next_of_passes (by decide +kernel), exists_next_of_passes (by decide +kernel)⟩

theorem witness_KeystreamDoesNotDependOnTheText :
    ∃ s s' t t' : State, s'.N = s.N ∧ s'.IDX = s.IDX ∧ SameSpc s s' ∧ s'.PT ≠ s.PT ∧
      exec .uPrgaStep s = .next t ∧ exec .uPrgaStep s' = .next t' :=
  ⟨scheduling, { scheduling with PT := bytes [0x49] }, _, _, rfl, rfl, ⟨rfl, rfl, rfl⟩, by decide,
    eq_next_of_passes State.reset (by decide +kernel), eq_next_of_passes State.reset (by decide +kernel)⟩

theorem witness_ArxInitBuildsTheMatrix :
    (∃ (s : State) (K M : Nat → Byte), s.KLEN = 32 ∧ s.NLEN = 12 ∧
      (∀ x, x < 32 → if x < s.KLEN.toNat then s.KEY.read x = some (K x) else K x = 0) ∧
      (∀ x, x < 12 → if x < s.NLEN.toNat then s.NONCE.read x = some (M x) else M x = 0)) ∧
    (∃ (s : State) (K M : Nat → Byte), s.KLEN = 1 ∧ s.NLEN = 0 ∧
      (∀ x, x < 32 → if x < s.KLEN.toNat then s.KEY.read x = some (K x) else K x = 0) ∧
      (∀ x, x < 12 → if x < s.NLEN.toNat then s.NONCE.read x = some (M x) else M x = 0)) :=
  ⟨⟨fullArx, fun _ => 7, fun _ => 9, by decide, by decide, by decide, by decide⟩,
   ⟨request [0x41] [0x6b] 0, fun x => if x = 0 then 0x6b else 0, fun _ => 0, by decide, by decide, by decide,
    by decide⟩⟩

theorem witness_ArxQuarterRoundOnItsGroup :
    ∀ q ∈ [0, 4, 78, 79], ∃ (s : State) (a b c d : Fin 16), (s.QN.toNat % 8, a, b, c, d) ∈ groupTable ∧
      s.QN.toNat = q := by
  intro q hq
  refine ⟨{ State.reset with QN := BitVec.ofNat 7 q }, (group (slotOf q)).a, (group (slotOf q)).b,
    (group (slotOf q)).c, (group (slotOf q)).d, ?_⟩
  simp only [List.mem_cons, List.not_mem_nil, or_false] at hq
  rcases hq with rfl | rfl | rfl | rfl <;> decide

theorem witness_ArxXorEncryptsOneByte :
    ∃ (s : State) (p z : Byte), s.IDX.toNat + 1 = s.PLEN.toNat ∧ s.PLEN.toNat ≤ Config.PT_MAX ∧
      s.PT.read s.IDX.toNat = some p ∧ s.BLOCK.read (s.IDX.toNat % 64) = some z :=
  ⟨{ request [0x48] [0] 0 with BLOCK := bytes [0x9f] }, 0x48, 0x9f, by decide, by decide +kernel, by decide, by decide⟩

theorem witness_ArxXorEncryptsOneByte_more (h : 2 ≤ Config.PT_MAX) :
    ∃ (s : State) (p z : Byte), s.IDX.toNat + 1 < s.PLEN.toNat ∧ s.PLEN.toNat ≤ Config.PT_MAX ∧
      s.PT.read s.IDX.toNat = some p ∧ s.BLOCK.read (s.IDX.toNat % 64) = some z :=
  ⟨{ request [0x48, 0x49] [0] 0 with BLOCK := bytes [0x9f] }, 0x48, 0x9f, by decide, h, by decide, by decide⟩

theorem witness_QuarterRoundsOfOnePassCommute :
    (∃ x y : Fin 8, x.val / 4 = 0 ∧ x.val / 4 = y.val / 4 ∧ x ≠ y) ∧
      ∃ x y : Fin 8, x.val / 4 = 1 ∧ x.val / 4 = y.val / 4 ∧ x ≠ y := by decide

theorem witness_ZeroPaddingGivesTheSameMatrix :
    ∃ (s s' t t' : State) (key nonce : List Byte) (a b : Nat), key.length + a = 32 ∧ nonce.length + b = 12 ∧
      s.KLEN.toNat = key.length ∧ s.KEY.holds key ∧
      s'.KLEN.toNat = key.length + a ∧ s'.KEY.holds (key ++ List.replicate a 0) ∧
      s.NLEN.toNat = nonce.length ∧ s.NONCE.holds nonce ∧
      s'.NLEN.toNat = nonce.length + b ∧ s'.NONCE.holds (nonce ++ List.replicate b 0) ∧
      exec .uArxInit s = .next t ∧ exec .uArxInit s' = .next t' :=
  ⟨{ request [0x41] [0x4b] 0 with NONCE := bytes [0x4e], NLEN := 1 },
   { request [0x41] (0x4b :: List.replicate 31 0) 0 with NONCE := bytes (0x4e :: List.replicate 11 0), NLEN := 12 },
   _, _, [0x4b], [0x4e], 31, 11, rfl, rfl, by decide, holds_of_all (by decide), by decide,
   holds_of_all (by decide +kernel), by decide, holds_of_all (by decide), by decide, holds_of_all (by decide +kernel),
   eq_next_of_passes State.reset (by decide +kernel), eq_next_of_passes State.reset (by decide +kernel)⟩

theorem witness_PacCleanKeepsTheLettersOfTheKey :
    (∃ (s : State) (key : List Byte), s.KLEN.toNat = key.length ∧ s.KLEN.toNat ≤ Config.KEY_MAX ∧ s.KEY.holds key ∧
      cleanKey key ≠ []) ∧
    (∃ (s : State) (key pt : List Byte), s.KLEN.toNat = key.length ∧ s.KLEN.toNat ≤ Config.KEY_MAX ∧ s.KEY.holds key ∧
      cleanKey key = [] ∧ s.PLEN.toNat = pt.length ∧ s.PLEN.toNat ≤ Config.PT_MAX ∧ s.PT.holds pt ∧ pt ≠ []) :=
  ⟨⟨request [0x41] [0x33, 0x6b] 0, [0x33, 0x6b], rfl, by decide +kernel, holds_of_all (by decide), by decide⟩,
   ⟨request [0x41] [0x31] 0, [0x31], [0x41], rfl, by decide +kernel, holds_of_all (by decide), by decide, rfl,
    by decide +kernel, holds_of_all (by decide), by decide⟩⟩

theorem witness_PacCharShiftsLettersOnly :
    (∀ x ∈ [(0x41, 0x41), (0x5A, 0x5A), (0x61, 0x5A), (0x7A, 0x41)], ∃ (s : State) (c kl : Byte),
      s.IDX.toNat + 1 = s.PLEN.toNat ∧ s.PLEN.toNat ≤ Config.PT_MAX ∧ s.OLEN.toNat ≤ s.IDX.toNat ∧
      s.CUR.toNat ≤ s.IDX.toNat ∧ s.PT.read s.IDX.toNat = some c ∧ isLetter c = true ∧ s.CLEN ≠ 0 ∧
      s.CKEY.read (s.CUR.toNat % s.CLEN.toNat) = some kl ∧ isUpper kl = true ∧ c.toNat = x.1 ∧ kl.toNat = x.2) ∧
    (∀ c ∈ [0x40#8, 0x5B#8, 0x60#8, 0x7B#8, 0xFF#8], ∀ cmd ∈ [0x03#32, 0x23#32], ∃ s : State,
      s.IDX.toNat + 1 = s.PLEN.toNat ∧ s.PLEN.toNat ≤ Config.PT_MAX ∧ s.OLEN.toNat ≤ s.IDX.toNat ∧
      s.CUR.toNat ≤ s.IDX.toNat ∧ s.PT.read s.IDX.toNat = some c ∧ isLetter c = false ∧
      (s.CMD.getLsbD 5 = true ↔ cmd = 0x23)) := by
  constructor
  · intro x hx
    refine ⟨{ request [BitVec.ofNat 8 x.1] [0x4b] 0 with CKEY := bytes [BitVec.ofNat 8 x.2], CLEN := 1 },
      BitVec.ofNat 8 x.1, BitVec.ofNat 8 x.2, ?_⟩
    simp only [List.mem_cons, List.not_mem_nil, or_false] at hx
    rcases hx with rfl | rfl | rfl | rfl <;> decide +kernel
  · intro c hc cmd hcmd
    refine ⟨{ request [c] [0x4b] 0 with CMD := cmd }, ?_⟩
    simp only [List.mem_cons, List.not_mem_nil, or_false] at hc hcmd
    rcases hc with rfl | rfl | rfl | rfl | rfl <;> rcases hcmd with rfl | rfl <;> decide +kernel

theorem witness_PacCharShiftsLettersOnly_more (h : 2 ≤ Config.PT_MAX) :
    ∃ (s : State) (c kl : Byte), s.IDX.toNat + 1 < s.PLEN.toNat ∧ s.PLEN.toNat ≤ Config.PT_MAX ∧
      s.OLEN.toNat ≤ s.IDX.toNat ∧ s.CUR.toNat ≤ s.IDX.toNat ∧ s.PT.read s.IDX.toNat = some c ∧ isLetter c = true ∧
      s.CLEN ≠ 0 ∧ s.CKEY.read (s.CUR.toNat % s.CLEN.toNat) = some kl ∧ isUpper kl = true :=
  ⟨{ request [0x41, 0x42] [0x4b] 0 with CKEY := bytes [0x4b], CLEN := 1 }, 0x41, 0x4b, by decide, h, by decide,
    by decide, by decide, by decide, by decide, by decide, by decide⟩

theorem witness_HostWritesOneLocation :
    State.reset.STATUS ≠ .busy ∧ Config.PT_MAX - 1 < Config.PT_MAX ∧ Config.KEY_MAX - 1 < Config.KEY_MAX ∧ 11 < 12 ∧
      Config.PT_MAX ≤ Config.PT_MAX ∧ Config.KEY_MAX ≤ Config.KEY_MAX ∧ 12 ≤ 12 :=
  ⟨by decide, Nat.sub_lt (Nat.succ_pos _) Nat.one_pos, Nat.sub_lt (Nat.succ_pos _) Nat.one_pos, by decide,
    Nat.le_refl _, Nat.le_refl _, Nat.le_refl _⟩

/-- A RUN_SPC of one byte that ended DONE. -/
def spcDone : State :=
  { verifying with
    STATUS := .done, PHASE := P_DONE, REC := bytes [0x41], VERIFY_OK := true, NONCE := bytes (List.replicate 12 9)
    KEY := bytes (List.replicate 32 7), KLEN := 32 }

/-- A RUN_ARX that ended DONE. -/
def arxDone : State :=
  { running fullArx 0x2 P_DONE with STATUS := .done, BLOCK := bytes (List.replicate 64 5) }

theorem witness_HostReadsValidElementsOnly :
    spcDone.STATUS ≠ .busy ∧ arxDone.STATUS ≠ .busy ∧
    ((spcDone.buf .OUT).read 0 = some 0x41 ∧ 0 < spcDone.OLEN.toNat) ∧
    ((spcDone.buf .KS).read 0 = some 0 ∧ 0 < spcDone.KSLEN.toNat) ∧
    ((spcDone.buf .REC).read 0 = some 0x41 ∧ 0 < spcDone.KSLEN.toNat ∧ spcDone.STATUS = .done ∧
      cmdOp spcDone.CMD = 1) ∧
    ((arxDone.buf .BLOCK).read 63 = some 5 ∧ 63 < 64 ∧ arxDone.STATUS = .done ∧ cmdOp arxDone.CMD = 2) ∧
    ((spcDone.buf .PT).read 0 = some 0x41 ∧ 0 < Config.PT_MAX) ∧
    ((spcDone.buf .KEY).read 31 = some 7 ∧ 31 < Config.KEY_MAX) ∧
    ((spcDone.buf .NONCE).read 11 = some 9 ∧ 11 < 12) ∧
    (∃ r, spcDone.TRACE.read 1 = some r ∧ 1 < spcDone.TLEN.toNat) ∧
    (spcDone.OLEN.toNat ≤ 1 ∧ spcDone.KSLEN.toNat ≤ 1 ∧ spcDone.TLEN.toNat ≤ 2) ∧
    ¬ (arxDone.STATUS = .done ∧ cmdOp arxDone.CMD = 1) ∧ ¬ (spcDone.STATUS = .done ∧ cmdOp spcDone.CMD = 2) ∧
    (NotReadable spcDone 1 .OUT ∧ NotReadable spcDone 1 .KS ∧ NotReadable spcDone 1 .REC ∧ NotReadable arxDone 0 .REC ∧
      NotReadable arxDone 64 .BLOCK ∧ NotReadable spcDone 0 .BLOCK ∧ NotReadable spcDone 0 .CKEY ∧
      NotReadable spcDone Config.PT_MAX .PT ∧ NotReadable spcDone Config.KEY_MAX .KEY ∧ NotReadable spcDone 12 .NONCE) ∧
    (¬ NotReadable State.reset 0 .PT ∧ ¬ NotReadable State.reset 31 .KEY ∧ ¬ NotReadable State.reset 11 .NONCE ∧
      ∀ b k, (State.reset.buf b).read k = none) := by
  refine ⟨?_, ?_, ?_, ?_, ?_, ?_, ?_, ?_, ?_, ⟨_, rfl, ?_⟩, ?_, ?_, ?_,
    ⟨?_, ?_, .inl ?_, .inr ?_, .inl ?_, .inr ?_, trivial, Nat.le_refl _, Nat.le_refl _, Nat.le_refl _⟩,
    ⟨fun h => ?_, fun h => ?_, fun h => ?_, fun b k => ?_⟩⟩
  on_goal 23 => cases b <;> rfl
  on_goal 22 => exact absurd (show 12 ≤ 11 from h) (by decide)
  on_goal 21 => exact absurd (Nat.le_trans Config.KEY_MAX_ge h) (by decide)
  on_goal 20 => exact absurd (Nat.le_trans Config.PT_MAX_pos h) (by decide)
  all_goals first | decide +kernel | (show _ ≤ _; decide)

theorem witness_HostHasNoMoveDuringARun :
    (∃ (s t : State) (m : HostMove) (rest : List Input), s.STATUS = .busy ∧ s.inputs = .host m :: rest ∧
      step s = .next t) ∧
    (∀ m, ∃ (s : State) (rest : List Input), s.STATUS = .busy ∧ s.inputs = .hostNow m :: rest) :=
  ⟨⟨validating 1 0x41 [.host (.writeReg .N 0)], _, _, _, rfl, rfl, eq_next_of_passes State.reset (by decide +kernel)⟩,
   fun m => ⟨validating 1 0x41 [.hostNow m], _, rfl, rfl⟩⟩

theorem witness_MicroOperationsLeaveTheRequest :
    ∃ (i : Instr) (c : BitVec 8) (s t : State), encode i = .uop c ∧ exec i s = .next t :=
  ⟨.uSpcVerify, 0x14, verifying, _, rfl, eq_next_of_passes State.reset (by decide +kernel)⟩

theorem witness_EnginesShareNoWorkingState :
    (∃ s t, exec .uKsaStep s = .next t) ∧ (∃ s t, exec .uArxQr s = .next t) ∧ ∃ s t, exec .uPacClean s = .next t :=
  ⟨⟨scheduling, exists_next_of_passes (by decide +kernel)⟩, ⟨scheduling, exists_next_of_passes (by decide +kernel)⟩,
   ⟨scheduling, exists_next_of_passes (by decide +kernel)⟩⟩

theorem witness_TraceRecordsNeverChange :
    ∃ (i : Instr) (c : BitVec 8) (s t : State), encode i = .uop c ∧ exec i s = .next t ∧ s.TLEN = 2 :=
  ⟨.uSpcVerify, 0x14, verifying, _, rfl, eq_next_of_passes State.reset (by decide +kernel), rfl⟩

theorem witness_OnlyTheseMicroOperationsEndARun :
    (∃ s t, s.STATUS = .busy ∧ exec .uSpcVerify s = .next t) ∧ (∃ s t, s.STATUS = .busy ∧ exec .uValidate s = .next t) ∧
      ∃ s t, s.STATUS = .busy ∧ exec .uPacClean s = .next t :=
  ⟨⟨verifying, _, rfl, eq_next_of_passes State.reset (by decide +kernel)⟩,
   ⟨validating 0 0x41 [], _, rfl, eq_next_of_passes State.reset (by decide +kernel)⟩,
   ⟨running (request [0x41] [0x31] 0) 0x3 P_PAC_CLEAN, _, rfl, eq_next_of_passes State.reset (by decide +kernel)⟩⟩

theorem witness_SequencerFollowsTheTransitionTable :
    (∀ i ∈ [0x6#32, 0x7#32], ∃ s t, s.PHASE = P_KSA ∧ s.IDX = i ∧ s.N = 8 ∧ sequencerMove s = .next t) ∧
    (∃ s t, s.PHASE = P_PRGA ∧ s.IDX.toNat + 1 = s.PLEN.toNat ∧ sequencerMove s = .next t) ∧
    (∀ q ∈ [78#7, 79#7], ∃ s t, s.PHASE = P_ARX_QR ∧ s.QN = q ∧ sequencerMove s = .next t) ∧
    (∃ s t, s.PHASE = P_ARX_XOR ∧ s.IDX.toNat + 1 = s.PLEN.toNat ∧ sequencerMove s = .next t) ∧
    (∀ k ∈ [0x31#8, 0x41#8], ∃ s t, s.PHASE = P_PAC_CLEAN ∧ s.KEY = bytes [k] ∧ sequencerMove s = .next t) ∧
    (∃ s t, s.PHASE = P_PAC_CHAR ∧ s.IDX.toNat + 1 = s.PLEN.toNat ∧ sequencerMove s = .next t) := by
  refine ⟨fun i hi => ?_, ⟨{ scheduling with PHASE := P_PRGA }, ?_⟩, fun q hq => ?_,
    ⟨{ running (request [0x48] [0] 0) 0x2 P_ARX_XOR with BLOCK := bytes [0x9f] }, ?_⟩, fun k hk => ?_,
    ⟨{ running (request [0x41] [0x4b] 0) 0x23 P_PAC_CHAR with CKEY := bytes [0x4b], CLEN := 1 }, ?_⟩⟩
  · refine ⟨{ scheduling with IDX := i }, stateOf _ State.reset, rfl, rfl, rfl, eq_next_of_passes State.reset ?_⟩
    simp only [List.mem_cons, List.not_mem_nil, or_false] at hi
    rcases hi with rfl | rfl <;> decide +kernel
  · exact ⟨_, rfl, by decide, eq_next_of_passes State.reset (by decide +kernel)⟩
  · refine ⟨{ running State.reset 0x2 P_ARX_QR with QN := q }, stateOf _ State.reset, rfl, rfl,
      eq_next_of_passes State.reset ?_⟩
    simp only [List.mem_cons, List.not_mem_nil, or_false] at hq
    rcases hq with rfl | rfl <;> decide +kernel
  · exact ⟨_, rfl, by decide, eq_next_of_passes State.reset (by decide +kernel)⟩
  · refine ⟨running (request [0x41] [k] 0) 0x23 P_PAC_CLEAN, stateOf _ State.reset, rfl, rfl,
      eq_next_of_passes State.reset ?_⟩
    simp only [List.mem_cons, List.not_mem_nil, or_false] at hk
    rcases hk with rfl | rfl <;> decide +kernel
  · exact ⟨_, rfl, by decide, eq_next_of_passes State.reset (by decide +kernel)⟩

theorem witness_RunSpcComputesItsFunction :
    ∀ n ∈ [1, 256], ∃ (s : State) (pt key : List Byte), s.STATUS ≠ .busy ∧ s.undisturbed = true ∧ Loaded s pt key ∧
      pt ≠ [] ∧ key ≠ [] ∧ pt.length ≤ Config.PT_MAX ∧ key.length ≤ Config.KEY_MAX ∧ s.N.toNat = n ∧ 1 ≤ n ∧
      n ≤ 256 := by
  intro n hn
  simp only [List.mem_cons, List.not_mem_nil, or_false] at hn
  refine ⟨request [0x41] [0x6b] (BitVec.ofNat 32 n), [0x41], [0x6b], nofun, rfl,
    ⟨rfl, rfl, holds_of_all rfl, holds_of_all rfl⟩, ?_⟩
  rcases hn with rfl | rfl <;> decide +kernel

theorem fullArx_loaded :
    Loaded fullArx [0x41] (List.replicate 32 7) ∧ LoadedNonce fullArx (List.replicate 12 9) :=
  ⟨⟨by decide, by decide, holds_of_all (by decide), holds_of_all (by decide +kernel)⟩,
   ⟨by decide, holds_of_all (by decide +kernel)⟩⟩

theorem witness_RunArxComputesItsFunction :
    ∃ (s : State) (pt key nonce : List Byte), s.STATUS ≠ .busy ∧ s.undisturbed = true ∧ Loaded s pt key ∧
      LoadedNonce s nonce ∧ pt ≠ [] ∧ key ≠ [] ∧ pt.length ≤ Config.PT_MAX ∧ key.length = 32 ∧ nonce.length = 12 :=
  ⟨fullArx, _, _, _, by decide, by decide, fullArx_loaded.1, fullArx_loaded.2, by decide, by decide, by decide +kernel,
    by decide, by decide⟩

theorem witness_RunPacComputesItsFunction :
    ∃ (s : State) (pt key : List Byte), s.STATUS ≠ .busy ∧ s.undisturbed = true ∧ Loaded s pt key ∧ pt ≠ [] ∧
      cleanKey key ≠ [] ∧ pt.length ≤ Config.PT_MAX ∧ key.length ≤ Config.KEY_MAX :=
  ⟨request [0x41] [0x33, 0x6b] 0, [0x41], [0x33, 0x6b], by decide, by decide,
    ⟨rfl, rfl, holds_of_all rfl, holds_of_all rfl⟩, by decide, by decide, by decide +kernel, by decide +kernel⟩

/-- A request whose key holds no letter. -/
def noLetter : State := request [0x20] [0x31] 0

theorem noLetter_loaded : Loaded noLetter [0x20] [0x31] := ⟨rfl, rfl, holds_of_all rfl, holds_of_all rfl⟩

theorem witness_RunPacWithoutKeyLetterFallsBack :
    ∃ (s : State) (pt key : List Byte), s.STATUS ≠ .busy ∧ s.undisturbed = true ∧ Loaded s pt key ∧ pt ≠ [] ∧
      key ≠ [] ∧ cleanKey key = [] ∧ pt.length ≤ Config.PT_MAX ∧ key.length ≤ Config.KEY_MAX :=
  ⟨noLetter, [0x20], [0x31], by decide, by decide, noLetter_loaded, by decide, by decide, by decide, by decide +kernel,
    by decide +kernel⟩

theorem request_admitted {n cmd : Word} (h : cmdOp cmd = 1 → n.toInt ≤ 256) (h2 : cmdOp cmd ≠ 2) (inputs : List Input) :
    AdmittedRequest { { request [0x41] [0x6b] n with inputs := inputs } with CMD := cmd } :=
  ⟨by show 1 ≤ Config.PT_MAX; decide +kernel, by show 1 ≤ Config.KEY_MAX; decide +kernel, fun e _ => h e,
    fun e => absurd e h2, fun e => absurd e h2⟩

theorem request_written {n cmd : Word} (h2 : cmdOp cmd ≠ 2) (inputs : List Input) :
    WrittenRequest { { request [0x41] [0x6b] n with inputs := inputs } with CMD := cmd } :=
  ⟨filledBelow_one (v := 0x41) rfl, filledBelow_one (v := 0x6b) rfl, fun e => absurd e h2⟩

theorem witness_ValidationErrorsArePrecise :
    (∃ (s : State) (w : Word) (rest : List Input), s.STATUS ≠ .busy ∧ s.inputs = .host (.start w) :: rest ∧
      State.undisturbed { s with inputs := rest } = true ∧ legalCommand w = false) ∧
    (∃ (s : State) (w : Word) (rest : List Input), s.STATUS ≠ .busy ∧ s.inputs = .host (.start w) :: rest ∧
      State.undisturbed { s with inputs := rest } = true ∧ legalCommand w = true ∧
      AdmittedRequest { s with CMD := w } ∧ WrittenRequest { s with CMD := w } ∧ (s.PLEN = 0 ∨ s.KLEN = 0)) ∧
    (∀ x ∈ [(0x01#32, 256#32), (0x41#32, 0#32), (0x41#32, 0x80000000#32)],
      ∃ (s : State) (w : Word) (rest : List Input), s.STATUS ≠ .busy ∧ s.inputs = .host (.start w) :: rest ∧
      State.undisturbed { s with inputs := rest } = true ∧ legalCommand w = true ∧
      AdmittedRequest { s with CMD := w } ∧ WrittenRequest { s with CMD := w } ∧ s.PLEN ≠ 0 ∧ s.KLEN ≠ 0 ∧
      cmdOp w = 1 ∧ (cmdNv w = false ∨ s.N.toInt ≤ 0) ∧ w = x.1 ∧ s.N = x.2) := by
  refine ⟨⟨idle [.host (.start 0x61)], 0x61, [], by decide, rfl, by decide, by decide⟩,
    ⟨idle [.host (.start 0x41)], 0x41, [], by decide, rfl, by decide, by decide,
      ⟨by decide +kernel, by decide +kernel, by decide, by decide, by decide⟩,
      ⟨filledBelow_zero _, filledBelow_zero _, fun _ => filledBelow_zero _⟩, by decide⟩, fun x hx => ?_⟩
  simp only [List.mem_cons, List.not_mem_nil, or_false] at hx
  refine ⟨{ request [0x41] [0x6b] x.2 with inputs := [.host (.start x.1)] }, x.1, [], nofun, rfl, rfl, ?_,
    request_admitted (fun _ => ?_) ?_ _, request_written ?_ _, (by decide : (1 : Word) ≠ 0), (by decide : (1 : Word) ≠ 0),
    ?_, ?_, rfl, rfl⟩ <;> rcases hx with rfl | rfl | rfl <;> decide

theorem witness_EveryAdmittedRunEnds :
    ∃ s : State, Inv s ∧ s.STATUS = .busy ∧ s.undisturbed = true ∧ s.PHASE = P_VALIDATE ∧ legalCommand s.CMD = true ∧
      AdmittedRequest s ∧ WrittenRequest s :=
  ⟨validating 256 0x41 [], validating_inv _ _ _, rfl, rfl, rfl, by decide, validating_admitted (by decide) (by decide),
    validating_written (by decide) []⟩

theorem witness_ResultsDoNotDependOnEarlierRuns :
    ∃ (s s' u t : State) (pt key nonce : List Byte) (i : Instr) (w : Word) (k : Nat), encode i = .cmd w ∧
      s.STATUS ≠ .busy ∧ s'.STATUS ≠ .busy ∧ s.undisturbed = true ∧ s'.undisturbed = true ∧
      Loaded s pt key ∧ Loaded s' pt key ∧ (i = .runArx → LoadedNonce s nonce ∧ LoadedNonce s' nonce) ∧
      (i = .runSpc true → s'.N = s.N) ∧ exec i s = .next u ∧ EndsAfter k u t ∧ s'.S ≠ s.S := by
  have ends : ∀ u : State, (steps 0 u = .next u ∧ u.STATUS = .busy) →
      passes (steps 1 u) (fun v => v.STATUS == .busy) = true →
      passes (steps 2 u) (fun v => v.STATUS != .busy) = true → ∃ t, EndsAfter 2 u t := by
    intro u h0 h1 h2
    cases e2 : steps 2 u <;> rw [e2] at h2 <;> try cases h2
    cases e1 : steps 1 u <;> rw [e1] at h1 <;> try cases h1
    rename_i t v
    refine ⟨t, e2, by simpa [passes] using h2, fun m hm => ?_⟩
    have : m = 0 ∨ m = 1 := by omega
    rcases this with e | e <;> subst e
    · exact ⟨u, h0⟩
    · exact ⟨v, e1, by simpa [passes] using h1⟩
  obtain ⟨t, ht⟩ := ends (stateOf (exec (.runPac .encrypt true) noLetter) State.reset) ⟨rfl, rfl⟩ (by decide +kernel)
    (by decide +kernel)
  exact ⟨noLetter, { noLetter with S := identity }, _, t, [0x20], [0x31], [], .runPac .encrypt true, 0x23, 2,
    by decide, by decide, by decide, rfl, rfl, noLetter_loaded, ⟨rfl, rfl, holds_of_all rfl, holds_of_all rfl⟩,
    fun h => (nomatch h), fun h => (nomatch h), eq_next_of_passes State.reset (by decide +kernel), ht,
    by decide +kernel⟩

/-- After any run the host can load its output as the text of the next one, so the premises on the second run of a round
trip can be met; those on the first are those of witness_RunSpcComputesItsFunction. -/
theorem witness_SpcRoundTripByAFreshRun :
    ∀ s t : State, s.STATUS ≠ .busy → s.undisturbed = true →
      ∃ s' : State, s'.STATUS ≠ .busy ∧ s'.undisturbed = true ∧ HoldsOutputAsText s t s' ∧ s'.N = s.N :=
  fun s t hn hu => ⟨{ s with PT := t.OUT, PLEN := t.OLEN }, hn, hu, ⟨rfl, fun _ _ => rfl, rfl, fun _ _ => rfl⟩, rfl⟩

/-- The same for RUN_ARX and witness_RunArxComputesItsFunction. -/
theorem witness_ArxRoundTripAndBlockReuse :
    ∀ s t : State, s.STATUS ≠ .busy → s.undisturbed = true →
      ∃ s' : State, s'.STATUS ≠ .busy ∧ s'.undisturbed = true ∧ HoldsOutputAsText s t s' ∧ s'.NLEN = s.NLEN ∧
        ∀ x, x < s.NLEN.toNat → s'.NONCE.read x = s.NONCE.read x :=
  fun s t hn hu => ⟨{ s with PT := t.OUT, PLEN := t.OLEN }, hn, hu, ⟨rfl, fun _ _ => rfl, rfl, fun _ _ => rfl⟩, rfl,
    fun _ _ => rfl⟩

theorem witness_PacRoundTrip : ∃ key : List Byte, cleanKey key ≠ [] := ⟨[0x33, 0x6b], by decide⟩

theorem witness_PacOutputHasTheShapeOfTheText : ∃ (pt key : List Byte) (c : Byte), cleanKey key ≠ [] ∧ pt[0]? = some c ∧
    isLetter c = false := ⟨[0x20], [0x6b], 0x20, by decide⟩

theorem witness_SpcKeystreamLiesBelowStateSize : ∀ n ∈ [1, 128, 256], 1 ≤ n ∧ n ≤ 256 := by decide

theorem witness_RequestMovesLoadAndStart :
    ∀ r : Request, ∃ (s : State) (pt key : List Byte), s.STATUS ≠ .busy ∧ s.inputs = r.moves.map .host ∧
      pt.length ≤ Config.PT_MAX ∧ key.length ≤ Config.KEY_MAX ∧ pt ≠ [] ∧ key ≠ [] :=
  fun r => ⟨{ State.reset with inputs := r.moves.map .host }, [0x41], [0x6b], nofun, rfl, by decide +kernel,
    by decide +kernel, by decide, by decide⟩

theorem witness_StepAtRestActsOnTheNextInput (inputs : List Input) :
    ∃ s : State, s.STATUS ≠ .busy ∧ s.inputs = inputs := ⟨idle inputs, by show Status.idle ≠ .busy; decide, rfl⟩

theorem witness_ValidateRefusesAnUnwrittenRequest :
    ∀ b ∈ [ByteBuf.PT, .KEY, .NONCE], ∃ s : State, legalCommand s.CMD = true ∧ AdmittedRequest s ∧ ¬ WrittenRequest s ∧
      s = unwrittenIn b := by
  intro b hb
  have hn : (∃ v : Byte, Memory.read [] 0 = some v) → False := fun ⟨_, h⟩ => nomatch h
  simp only [List.mem_cons, List.not_mem_nil, or_false] at hb
  refine ⟨unwrittenIn b, ?_, ⟨?_, ?_, ?_, ?_, ?_⟩, fun h => ?_, rfl⟩
  on_goal 7 =>
    rcases hb with rfl | rfl | rfl
    exacts [hn (h.text 0 (by decide)), hn (h.key 0 (by decide)), hn (h.nonce (by decide) 0 (by decide))]
  all_goals rcases hb with rfl | rfl | rfl <;> decide +kernel

end Sys2Proof.Tests
end

section
/-! PROOFS. What `PHASE` and a command word select, what an admitted request holds, and that the invariant does not
speak of the inputs. -/

namespace Sys2Proof.Machine

/-! ## The instruction that a register value selects -/

/-- What `PHASE` selects stands in the table of R99. -/
theorem mem_uopTable_of_decodeUop {c : BitVec 8} {i : Instr} (h : decodeUop c = .ok i) : (c, i) ∈ uopTable := by
  unfold decodeUop at h
  split at h
  · next row hrow =>
    have hc : row.1 = c := by simpa using List.find?_some hrow
    cases h
    exact hc ▸ List.mem_of_find?_eq_some hrow
  · split at h <;> cases h

/-- A word that selects an instruction selects one of the commands (R96 to R98). -/
theorem encode_of_decodeCmd {w : Word} {i : Instr} (h : decodeCmd w = .ok i) : ∃ v, encode i = .cmd v := by
  unfold decodeCmd at h
  split at h
  · cases h; exact ⟨_, rfl⟩
  · split at h
    · cases h; exact ⟨_, rfl⟩
    · split at h
      · cases h; exact ⟨_, rfl⟩
      · cases h

/-- A command is the H_START of its word (R122, R128 to R130). -/
theorem exec_of_encode_cmd {i : Instr} {w : Word} (h : encode i = .cmd w) (s : State) : exec i s = hStart w s := by
  cases i <;> cases h <;> rfl

/-! ## Requests -/

/-- The bounds of R127, as `U_VALIDATE` checks them. -/
theorem State.excess_eq_none {s : State} : s.excess = none ↔ AdmittedRequest s := by
  have none_iff {p : Prop} [Decidable p] (e : Excess) (x : Option Excess) :
      (if p then some e else x) = none ↔ ¬ p ∧ x = none := by split <;> simp [*]
  simp only [State.excess, none_iff, not_and, not_lt, and_true]
  exact ⟨fun ⟨h1, h2, h3, h4, h5⟩ => ⟨h1, h2, h3, h4, h5⟩, fun ⟨h1, h2, h3, h4, h5⟩ => ⟨h1, h2, h3, h4, h5⟩⟩

/-- A buffer that is filled holds the sequence of its values. -/
theorem Memory.exists_holds_of_filledBelow {α : Type} {m : Memory α} {n : Nat} (h : m.filledBelow n) :
    ∃ l : List α, l.length = n ∧ m.holds l := by
  choose v hv using h
  refine ⟨List.ofFn fun k : Fin n => v k k.isLt, List.length_ofFn, fun k hk => ?_⟩
  rw [List.length_ofFn] at hk
  rw [hv k hk, List.getElem?_ofFn, dif_pos hk]

theorem Memory.filledBelow_mono {α : Type} {m : Memory α} {n k : Nat} (h : m.filledBelow n) (hk : k ≤ n) :
    m.filledBelow k := fun x hx => h x (by omega)

namespace RequestOk

variable {s : State} {op : BitVec 4}

theorem plen_le (h : RequestOk s op) : s.PLEN.toNat ≤ Config.PT_MAX := (State.excess_eq_none.mp h.admitted).plaintext

theorem klen_le (h : RequestOk s op) : s.KLEN.toNat ≤ Config.KEY_MAX := (State.excess_eq_none.mp h.admitted).key

theorem klen_ne_zero (h : RequestOk s op) : s.KLEN.toNat ≠ 0 := fun e => h.key (BitVec.eq_of_toNat_eq e)

theorem text_filled (h : RequestOk s op) : s.PT.filledBelow s.PLEN.toNat := (State.unwritten_eq_none.mp h.written).1

theorem key_filled (h : RequestOk s op) : s.KEY.filledBelow s.KLEN.toNat := (State.unwritten_eq_none.mp h.written).2.1

theorem nonce_filled (h : RequestOk s 2) : s.NONCE.filledBelow s.NLEN.toNat :=
  (State.unwritten_eq_none.mp h.written).2.2 h.engine

end RequestOk

/-! ## What the invariant says beyond the inputs -/

/-- The invariant does not speak of what comes from outside. -/
theorem Inv.withInputs {s : State} (h : Inv s) (rest : List Input) : Inv { s with inputs := rest } :=
  have request {op : BitVec 4} (q : RequestOk s op) : RequestOk { s with inputs := rest } op := { q with }
  { memory := { h.memory with }
    status := { h.status with }
    results := { h.results with }
    fresh := { h.fresh with }
    spc := { h.spc with request := fun hp => ⟨request (h.spc.request hp).1, (h.spc.request hp).2⟩ }
    arx := { h.arx with request := fun hp => request (h.arx.request hp) }
    pac := { h.pac with request := fun hp => request (h.pac.request hp) } }

end Sys2Proof.Machine
end

section
/-! PROOFS. No state of the invariant faults (O4): progress of each micro-operation, then the acts from outside. -/

namespace Sys2Proof.Machine

/-! ## Progress: from the invariant each micro-operation but `U_VALIDATE` answers a next state

The operand ranges that the `exec…_eq_next` laws ask for are what the invariant says of the phase. -/

section Progress

variable {s : State}

theorem Inv.uSpcInit_next (h : Inv s) (hp : s.PHASE = P_SPC_INIT) : ∃ t, execUSpcInit s = .next t :=
  ⟨_, execUSpcInit_eq_next.mpr ⟨(h.spc.request (by simp [hp])).2.2, rfl⟩⟩

theorem Inv.uKsaStep_next (h : Inv s) (hp : s.PHASE = P_KSA) : ∃ t, execUKsaStep s = .next t := by
  obtain ⟨req, hn, hn'⟩ := h.spc.request (by simp [hp])
  obtain ⟨hi, -⟩ := h.spc.ksa hp
  obtain ⟨kb, hkb⟩ := req.key_filled (s.IDX.toNat % s.KLEN.toNat) (Nat.mod_lt _ (Nat.pos_of_ne_zero req.klen_ne_zero))
  have hidx : s.IDX.toNat = (BitVec.ofNat 8 s.IDX.toNat).toNat := by
    rw [BitVec.toNat_ofNat]; exact (Nat.mod_eq_of_lt (by omega)).symm
  exact ⟨_, execUKsaStep_eq_next.mpr ⟨_, _, kb, rfl, hn, hn', hidx, req.klen_ne_zero, hkb, rfl⟩⟩

theorem Inv.uPrgaStep_next (h : Inv s) (hp : s.PHASE = P_PRGA) : ∃ t, execUPrgaStep s = .next t := by
  obtain ⟨req, hn, hn'⟩ := h.spc.request (by simp [hp])
  obtain ⟨hi, -⟩ := h.spc.prga hp
  obtain ⟨p, hpt⟩ := req.text_filled s.IDX.toNat hi
  exact ⟨_, execUPrgaStep_eq_next.mpr ⟨_, p, rfl, hn, hn', hpt, Nat.lt_of_lt_of_le hi req.plen_le, rfl⟩⟩

theorem Inv.uSpcVerify_next (h : Inv s) (hp : s.PHASE = P_SPC_VERIFY) : ∃ t, execUSpcVerify s = .next t := by
  obtain ⟨req, -⟩ := h.spc.request (by simp [hp])
  obtain ⟨ho, hk, -⟩ := h.spc.verify hp
  obtain ⟨out, hout⟩ := Memory.exists_holds_of_filledBelow (ho ▸ h.results.out)
  obtain ⟨ks, hks⟩ := Memory.exists_holds_of_filledBelow (hk ▸ h.results.ks)
  obtain ⟨pt, hpt⟩ := Memory.exists_holds_of_filledBelow req.text_filled
  exact ⟨_, execUSpcVerify_eq_next.mpr ⟨out, ks, pt, hout, hks, hpt, .inr req.plen_le, rfl⟩⟩

theorem Inv.uArxInit_next (h : Inv s) (hp : s.PHASE = P_ARX_INIT) : ∃ t, execUArxInit s = .next t := by
  have req := h.arx.request (by simp [hp])
  obtain ⟨key, hkey⟩ : ∃ l, s.keyHead = .next l := State.readBytes_of_filled fun k hk => by
    rw [Nat.zero_add]; exact req.key_filled k (by omega)
  obtain ⟨nonce, hnonce⟩ : ∃ l, s.nonceHead = .next l := State.readBytes_of_filled fun k hk => by
    rw [Nat.zero_add]; exact req.nonce_filled k (by omega)
  exact ⟨_, execUArxInit_eq_next.mpr ⟨key, nonce, hkey, hnonce, rfl⟩⟩

theorem Inv.uArxXor_next (h : Inv s) (hp : s.PHASE = P_ARX_XOR) : ∃ t, execUArxXor s = .next t := by
  have req := h.arx.request (by simp [hp])
  obtain ⟨hi, -, -, hblock, -⟩ := h.arx.xor hp
  obtain ⟨p, hpt⟩ := req.text_filled s.IDX.toNat hi
  obtain ⟨z, hz⟩ := hblock (s.IDX.toNat % 64) (Nat.mod_lt _ (by omega))
  exact ⟨_, execUArxXor_eq_next.mpr ⟨p, z, hpt, hz, Nat.lt_of_lt_of_le hi req.plen_le, rfl⟩⟩

theorem Inv.uPacClean_next (h : Inv s) (hp : s.PHASE = P_PAC_CLEAN) : ∃ t, execUPacClean s = .next t := by
  have req := h.pac.request (by simp [hp])
  obtain ⟨key, hlen, hkey⟩ := Memory.exists_holds_of_filledBelow req.key_filled
  obtain ⟨pt, hptlen, hpt⟩ := Memory.exists_holds_of_filledBelow req.text_filled
  by_cases hc : cleanKey key = []
  · exact ⟨_, execUPacClean_eq_next.mpr
      ⟨key, ⟨hlen, hkey⟩, .inr ⟨hc, pt, ⟨hptlen, hpt⟩, .inr (hptlen ▸ req.plen_le), rfl⟩⟩⟩
  · have hfits : (cleanKey key).length ≤ Config.KEY_MAX :=
      (cleanKey_length_le key).trans (hlen ▸ req.klen_le)
    exact ⟨_, execUPacClean_eq_next.mpr ⟨key, ⟨hlen, hkey⟩, .inl ⟨hc, hfits, rfl⟩⟩⟩

theorem Inv.uPacChar_next (h : Inv s) (hp : s.PHASE = P_PAC_CHAR) : ∃ t, execUPacChar s = .next t := by
  have req := h.pac.request (by simp [hp])
  obtain ⟨hi, hout, -, -, hclen, -, hckey⟩ := h.pac.char hp
  obtain ⟨c, hc⟩ := req.text_filled s.IDX.toNat hi
  have hfits : s.OLEN.toNat < Config.PT_MAX := by have := req.plen_le; omega
  obtain ⟨kl, hkl, hu⟩ := hckey (s.CUR.toNat % s.CLEN.toNat) (Nat.mod_lt _ hclen)
  cases hl : isLetter c with
  | true => exact ⟨_, execUPacChar_eq_next.mpr ⟨c, hc, .inl ⟨hl, hfits, by omega, kl, hkl, hu, rfl⟩⟩⟩
  | false =>
    cases hpres : cmdPres s.CMD with
    | true => exact ⟨_, execUPacChar_eq_next.mpr ⟨c, hc, .inr (.inl ⟨hl, hpres, hfits, rfl⟩)⟩⟩
    | false => exact ⟨_, execUPacChar_eq_next.mpr ⟨c, hc, .inr (.inr ⟨hl, hpres, rfl⟩)⟩⟩

end Progress

/-- `U_VALIDATE` ends a run, goes on or refuses; it has no fault. -/
theorem execUValidate_ne_fault (s : State) (f : Fault) : execUValidate s ≠ .fault f := by
  unfold execUValidate
  split
  · nofun
  · split
    · nofun
    · split <;> nofun

/-- The micro-operation that `PHASE` selects does not fault in a state of the invariant. -/
theorem Inv.exec_selected_ne_fault {s : State} (h : Inv s) {i : Instr} (hi : (s.PHASE, i) ∈ uopTable) (f : Fault) :
    exec i s ≠ .fault f := by
  have next_ne {x : Res State} (hx : ∃ t, x = .next t) : x ≠ .fault f := by
    obtain ⟨t, rfl⟩ := hx; nofun
  simp only [uopTable, List.mem_cons, List.not_mem_nil, or_false, Prod.mk.injEq] at hi
  rcases hi with ⟨hp, rfl⟩ | ⟨hp, rfl⟩ | ⟨hp, rfl⟩ | ⟨hp, rfl⟩ | ⟨hp, rfl⟩ | ⟨hp, rfl⟩ | ⟨hp, rfl⟩ | ⟨hp, rfl⟩ |
    ⟨hp, rfl⟩ | ⟨hp, rfl⟩ | ⟨hp, rfl⟩ | ⟨hp, rfl⟩ | ⟨hp, rfl⟩
  · exact execUValidate_ne_fault s f
  · exact next_ne (h.uSpcInit_next hp)
  · exact next_ne (h.uKsaStep_next hp)
  · exact next_ne ⟨_, execUPrgaInit_eq_next.mpr rfl⟩
  · exact next_ne (h.uPrgaStep_next hp)
  · exact next_ne (h.uSpcVerify_next hp)
  · exact next_ne (h.uArxInit_next hp)
  · exact next_ne ⟨_, execUArxCopy_eq_next.mpr rfl⟩
  · exact next_ne ⟨_, execUArxQr_eq_next.mpr rfl⟩
  · exact next_ne ⟨_, execUArxFinal_eq_next.mpr rfl⟩
  · exact next_ne (h.uArxXor_next hp)
  · exact next_ne (h.uPacClean_next hp)
  · exact next_ne (h.uPacChar_next hp)

theorem Inv.sequencerMove_ne_fault {s : State} (h : Inv s) (hb : s.STATUS = .busy) (f : Fault) :
    sequencerMove s ≠ .fault f := by
  obtain ⟨i, hi⟩ := h.status.busy.mp hb
  rw [sequencerMove, hi]
  exact h.exec_selected_ne_fault (mem_uopTable_of_decodeUop hi) f

/-! ## The host never meets a fault either -/

theorem noValue_ne_fault_of_request {b : ByteBuf} (hb : b = .PT ∨ b = .KEY ∨ b = .NONCE) (f : Fault) :
    (noValue b : Res Byte) ≠ .fault f := by
  rcases hb with rfl | rfl | rfl <;> nofun

/-- What the host may read of the buffers the sequencer writes has been written. -/
theorem ResultsOk.written_of_readable {s : State} (h : ResultsOk s) {b : ByteBuf} {k : Nat}
    (hr : s.readable b k = true) : (b = .PT ∨ b = .KEY ∨ b = .NONCE) ∨ ∃ v, (s.buf b).read k = some v := by
  cases b with
  | PT => exact .inl (.inl rfl)
  | KEY => exact .inl (.inr (.inl rfl))
  | NONCE => exact .inl (.inr (.inr rfl))
  | OUT => exact .inr (h.out k (of_decide_eq_true hr))
  | KS => exact .inr (h.ks k (of_decide_eq_true hr))
  | REC => obtain ⟨hd, hc, hk⟩ := of_decide_eq_true hr; exact .inr (h.recovered hd hc k hk)
  | BLOCK => obtain ⟨hd, hc, hk⟩ := of_decide_eq_true hr; exact .inr (h.block hd hc k hk)
  | CKEY => cases hr

theorem ResultsOk.readByte_ne_fault {s : State} (h : ResultsOk s) {b : ByteBuf} {k : Nat}
    (hr : s.readable b k = true) (f : Fault) : s.readByte b k ≠ .fault f := by
  unfold State.readByte
  split
  · nofun
  · next hnone =>
    rcases h.written_of_readable hr with hb | ⟨v, hv⟩
    · exact noValue_ne_fault_of_request hb f
    · rw [hnone] at hv; cases hv

theorem ResultsOk.hostValue_ne_fault {s : State} (h : ResultsOk s) (t : ReadTarget) (f : Fault) :
    s.hostValue t ≠ .fault f := by
  cases t with
  | reg r => nofun
  | elem b k =>
    simp only [State.hostValue]
    split
    · next hr =>
      rw [ne_eq, Res.andThen_eq_fault]
      rintro (hf | ⟨v, -, hf⟩)
      · exact h.readByte_ne_fault hr f hf
      · cases hf
    · nofun
  | record k =>
    simp only [State.hostValue]
    split
    · next hk =>
      obtain ⟨r, hr⟩ := h.trace k hk
      rw [hr]
      nofun
    · nofun

theorem hStart_ne_fault (w : Word) (s : State) (f : Fault) : hStart w s ≠ .fault f := by
  unfold hStart; split <;> nofun

theorem hWriteReg_ne_fault (r : ReqReg) (v : Word) (s : State) (f : Fault) : hWriteReg r v s ≠ .fault f := by
  unfold hWriteReg
  split
  · nofun
  · cases r <;> nofun

theorem hWriteElem_ne_fault (b : ReqBuf) (k : Nat) (v : Byte) (s : State) (f : Fault) :
    hWriteElem b k v s ≠ .fault f := by
  unfold hWriteElem
  split
  · nofun
  · split <;> nofun

theorem ResultsOk.hRead_ne_fault {s : State} (h : ResultsOk s) (t : ReadTarget) (f : Fault) : hRead t s ≠ .fault f := by
  unfold hRead
  split
  · nofun
  · rw [ne_eq, Res.andThen_eq_fault]
    rintro (hf | ⟨v, -, hf⟩)
    · exact h.hostValue_ne_fault t f hf
    · cases hf

theorem ResultsOk.hostMove_ne_fault {s : State} (h : ResultsOk s) (m : HostMove) (f : Fault) :
    hostMove m s ≠ .fault f := by
  cases m with
  | writeReg r v => exact hWriteReg_ne_fault r v s f
  | writeElem b k v => exact hWriteElem_ne_fault b k v s f
  | read t => exact h.hRead_ne_fault t f
  | start w =>
    simp only [hostMove]
    split
    · next i hi =>
      obtain ⟨v, hv⟩ := encode_of_decodeCmd hi
      rw [exec_of_encode_cmd hv]
      exact hStart_ne_fault v s f
    · exact hStart_ne_fault w s f

theorem ResultsOk.actOn_ne_fault {s : State} (h : ResultsOk s) (inp : Input) (f : Fault) : actOn inp s ≠ .fault f := by
  cases inp with
  | pass => nofun
  | reset => nofun
  | host m => exact h.hostMove_ne_fault m f
  | hostNow m => exact h.hostMove_ne_fault m f

/-- Settles O4: while a run is in progress the phase's clause of the invariant gives the micro-operation its operands;
an act from outside reads only what the invariant says has been written. -/
theorem invariantStatesNeverFault : Obligations.InvariantStatesNeverFault := by
  intro s f h
  unfold step
  split
  · next hb =>
    unfold busyStep
    split
    · exact h.sequencerMove_ne_fault hb f
    · next inp rest _ =>
      split
      · exact (h.withInputs rest).results.actOn_ne_fault inp f
      · split
        · exact (h.withInputs rest).sequencerMove_ne_fault hb f
        · exact h.sequencerMove_ne_fault hb f
  · unfold restStep
    split
    · nofun
    · next inp rest _ => exact (h.withInputs rest).results.actOn_ne_fault inp f

end Sys2Proof.Machine
end

section
/-! PROOFS. What each micro-operation leaves of the other engines' working state (O36) and of the trace (O37). -/

namespace Sys2Proof.Machine

/-! ## Working state -/

theorem ksaNext_leaves (s : State) (n : Nat) (i kb : Byte) :
    SameArx s (ksaNext s n i kb) ∧ SamePac s (ksaNext s n i kb) := by
  dsimp only [ksaNext]
  split <;> exact ⟨⟨rfl, rfl, rfl⟩, ⟨rfl, rfl, rfl⟩⟩

theorem prgaNext_leaves (s : State) (n : Nat) (p : Byte) :
    SameArx s (prgaNext s n p) ∧ SamePac s (prgaNext s n p) := by
  dsimp only [prgaNext]
  split <;> exact ⟨⟨rfl, rfl, rfl⟩, ⟨rfl, rfl, rfl⟩⟩

theorem arxQrNext_leaves (s : State) : SameSpc s (arxQrNext s) ∧ SamePac s (arxQrNext s) := by
  dsimp only [arxQrNext]
  split <;> exact ⟨⟨rfl, rfl, rfl⟩, ⟨rfl, rfl, rfl⟩⟩

theorem arxXorNext_leaves (s : State) (p z : Byte) :
    SameSpc s (arxXorNext s p z) ∧ SamePac s (arxXorNext s p z) := by
  dsimp only [arxXorNext]
  split <;> exact ⟨⟨rfl, rfl, rfl⟩, ⟨rfl, rfl, rfl⟩⟩

theorem pacLoop_leaves {s s1 : State} (h : SameSpc s s1 ∧ SameArx s s1) :
    SameSpc s (pacLoop s s1) ∧ SameArx s (pacLoop s s1) := by
  obtain ⟨⟨hS, hI, hJ⟩, ⟨hMI, hMW, hBLOCK⟩⟩ := h
  unfold pacLoop
  split <;> exact ⟨⟨hS, hI, hJ⟩, ⟨hMI, hMW, hBLOCK⟩⟩

theorem pacLetterNext_leaves (s : State) (c kl : Byte) :
    SameSpc s (pacLetterNext s c kl) ∧ SameArx s (pacLetterNext s c kl) := by
  refine ⟨⟨?_, ?_, ?_⟩, ⟨?_, ?_, ?_⟩⟩ <;> simp [pacLetterNext, pacAppended]

/-- SPC micro-operations (R151 to R155). -/
theorem spc_leaves_arx_pac {i : Instr} {s t : State}
    (hi : i ∈ [.uSpcInit, .uKsaStep, .uPrgaInit, .uPrgaStep, .uSpcVerify]) (h : exec i s = .next t) :
    SameArx s t ∧ SamePac s t := by
  simp only [List.mem_cons, List.not_mem_nil, or_false] at hi
  rcases hi with rfl | rfl | rfl | rfl | rfl
  · obtain ⟨-, rfl⟩ := execUSpcInit_eq_next.mp h
    exact ⟨⟨rfl, rfl, rfl⟩, ⟨rfl, rfl, rfl⟩⟩
  · obtain ⟨n, i, kb, -, -, -, -, -, -, rfl⟩ := execUKsaStep_eq_next.mp h
    exact ksaNext_leaves s n i kb
  · obtain rfl := execUPrgaInit_eq_next.mp h
    exact ⟨⟨rfl, rfl, rfl⟩, ⟨rfl, rfl, rfl⟩⟩
  · obtain ⟨n, p, -, -, -, -, -, rfl⟩ := execUPrgaStep_eq_next.mp h
    exact prgaNext_leaves s n p
  · obtain ⟨out, ks, pt, -, -, -, -, rfl⟩ := execUSpcVerify_eq_next.mp h
    exact ⟨⟨rfl, rfl, rfl⟩, ⟨rfl, rfl, rfl⟩⟩

/-- ARX micro-operations (R183, R186, R187, R189, R190). -/
theorem arx_leaves_spc_pac {i : Instr} {s t : State}
    (hi : i ∈ [.uArxInit, .uArxCopy, .uArxQr, .uArxFinal, .uArxXor]) (h : exec i s = .next t) :
    SameSpc s t ∧ SamePac s t := by
  simp only [List.mem_cons, List.not_mem_nil, or_false] at hi
  rcases hi with rfl | rfl | rfl | rfl | rfl
  · obtain ⟨key, nonce, -, -, rfl⟩ := execUArxInit_eq_next.mp h
    exact ⟨⟨rfl, rfl, rfl⟩, ⟨rfl, rfl, rfl⟩⟩
  · obtain rfl := execUArxCopy_eq_next.mp h
    exact ⟨⟨rfl, rfl, rfl⟩, ⟨rfl, rfl, rfl⟩⟩
  · obtain rfl := execUArxQr_eq_next.mp h
    exact arxQrNext_leaves s
  · obtain rfl := execUArxFinal_eq_next.mp h
    exact ⟨⟨rfl, rfl, rfl⟩, ⟨rfl, rfl, rfl⟩⟩
  · obtain ⟨p, z, -, -, -, rfl⟩ := execUArxXor_eq_next.mp h
    exact arxXorNext_leaves s p z

/-- PAC micro-operations (R222, R223). -/
theorem pac_leaves_spc_arx {i : Instr} {s t : State} (hi : i ∈ [.uPacClean, .uPacChar]) (h : exec i s = .next t) :
    SameSpc s t ∧ SameArx s t := by
  simp only [List.mem_cons, List.not_mem_nil, or_false] at hi
  rcases hi with rfl | rfl
  · obtain ⟨key, -, ⟨-, -, rfl⟩ | ⟨-, pt, -, -, rfl⟩⟩ := execUPacClean_eq_next.mp h <;>
      exact ⟨⟨rfl, rfl, rfl⟩, ⟨rfl, rfl, rfl⟩⟩
  · obtain ⟨c, -, ⟨-, -, -, kl, -, -, rfl⟩ | ⟨-, -, -, rfl⟩ | ⟨-, -, rfl⟩⟩ := execUPacChar_eq_next.mp h
    · exact pacLoop_leaves (pacLetterNext_leaves s c kl)
    · exact pacLoop_leaves ⟨⟨rfl, rfl, rfl⟩, ⟨rfl, rfl, rfl⟩⟩
    · exact pacLoop_leaves ⟨⟨rfl, rfl, rfl⟩, ⟨rfl, rfl, rfl⟩⟩

/-- Settles O36, engine by engine. -/
theorem enginesShareNoWorkingState : Obligations.EnginesShareNoWorkingState := fun _ _ _ h =>
  ⟨fun hi => spc_leaves_arx_pac hi h, fun hi => arx_leaves_spc_pac hi h, fun hi => pac_leaves_spc_arx hi h⟩

/-! ## Trace -/

theorem State.checkOperands_sameTrace (s : State) : SameTrace s s.checkOperands := by
  rcases s.checkOperands_cases with ⟨-, e⟩ | ⟨-, -, ⟨-, -, e⟩ | ⟨-, -, -, e⟩ | ⟨-, e⟩ | ⟨-, -, e⟩⟩ <;> rw [e] <;>
    exact ⟨rfl, rfl⟩

/-- The micro-operations without a record (R103). -/
theorem silent_sameTrace {i : Instr} {s t : State} (hi : i ∈ [.uValidate, .uSpcInit, .uPrgaInit, .uArxCopy])
    (h : exec i s = .next t) : SameTrace s t := by
  simp only [List.mem_cons, List.not_mem_nil, or_false] at hi
  rcases hi with rfl | rfl | rfl | rfl
  · obtain ⟨-, rfl⟩ | ⟨-, -, -, rfl⟩ := execUValidate_eq_next.mp h
    · exact ⟨rfl, rfl⟩
    · exact s.checkOperands_sameTrace
  · obtain ⟨-, rfl⟩ := execUSpcInit_eq_next.mp h
    exact ⟨rfl, rfl⟩
  · obtain rfl := execUPrgaInit_eq_next.mp h
    exact ⟨rfl, rfl⟩
  · obtain rfl := execUArxCopy_eq_next.mp h
    exact ⟨rfl, rfl⟩

/-- One record with the tag c has been appended, and nothing else in the trace has changed. -/
def EmitsTag (s t : State) (c : BitVec 8) : Prop := ∃ r, Emitted s t r ∧ r.tag = c

theorem ksaNext_emitsTag (s : State) (n : Nat) (i kb : Byte) : EmitsTag s (ksaNext s n i kb) 0x11 := by
  dsimp only [ksaNext]
  split <;> exact ⟨_, emitted_of_write _ _ rfl rfl, rfl⟩

theorem prgaNext_emitsTag (s : State) (n : Nat) (p : Byte) : EmitsTag s (prgaNext s n p) 0x13 := by
  dsimp only [prgaNext]
  split <;> exact ⟨_, emitted_of_write _ _ rfl rfl, rfl⟩

theorem arxQrNext_emitsTag (s : State) : EmitsTag s (arxQrNext s) 0x22 := by
  dsimp only [arxQrNext]
  split <;> exact ⟨_, emitted_of_write _ _ rfl rfl, rfl⟩

theorem arxXorNext_emitsTag (s : State) (p z : Byte) : EmitsTag s (arxXorNext s p z) 0x24 := by
  dsimp only [arxXorNext]
  split <;> exact ⟨_, emitted_of_write _ _ rfl rfl, rfl⟩

@[simp] theorem pacLoop_TRACE (s s1 : State) : (pacLoop s s1).TRACE = s1.TRACE :=
  pacLoop_field State.TRACE s s1 (fun _ _ => rfl) fun _ => rfl

@[simp] theorem pacLoop_TLEN (s s1 : State) : (pacLoop s s1).TLEN = s1.TLEN :=
  pacLoop_field State.TLEN s s1 (fun _ _ => rfl) fun _ => rfl

theorem execUPacChar_emitsTag {s t : State} (h : execUPacChar s = .next t) : EmitsTag s t 0x31 := by
  obtain ⟨c, -, ⟨-, -, -, kl, -, -, rfl⟩ | ⟨-, -, -, rfl⟩ | ⟨-, -, rfl⟩⟩ := execUPacChar_eq_next.mp h <;>
    exact ⟨_, emitted_of_write _ _ (pacLoop_TRACE s _) (pacLoop_TLEN s _), rfl⟩

/-- The micro-operations with a record: its tag is the `PHASE` code (R103). -/
theorem emitsTag_of_not_silent {i : Instr} {c : BitVec 8} {s t : State} (hc : encode i = .uop c)
    (hi : i ∉ [.uValidate, .uSpcInit, .uPrgaInit, .uArxCopy]) (h : exec i s = .next t) : EmitsTag s t c := by
  cases i with
  | runSpc nv => cases hc
  | runArx => cases hc
  | runPac mode preserve => cases hc
  | uValidate => exact absurd (by simp) hi
  | uSpcInit => exact absurd (by simp) hi
  | uPrgaInit => exact absurd (by simp) hi
  | uArxCopy => exact absurd (by simp) hi
  | uKsaStep =>
    cases hc
    obtain ⟨n, i, kb, -, -, -, -, -, -, rfl⟩ := execUKsaStep_eq_next.mp h
    exact ksaNext_emitsTag s n i kb
  | uPrgaStep =>
    cases hc
    obtain ⟨n, p, -, -, -, -, -, rfl⟩ := execUPrgaStep_eq_next.mp h
    exact prgaNext_emitsTag s n p
  | uSpcVerify =>
    cases hc
    obtain ⟨out, ks, pt, -, -, -, -, rfl⟩ := execUSpcVerify_eq_next.mp h
    exact ⟨_, emitted_of_write _ _ rfl rfl, rfl⟩
  | uArxInit =>
    cases hc
    obtain ⟨key, nonce, -, -, rfl⟩ := execUArxInit_eq_next.mp h
    exact ⟨_, emitted_of_write _ _ rfl rfl, rfl⟩
  | uArxQr =>
    cases hc
    obtain rfl := execUArxQr_eq_next.mp h
    exact arxQrNext_emitsTag s
  | uArxFinal =>
    cases hc
    obtain rfl := execUArxFinal_eq_next.mp h
    exact ⟨_, emitted_of_write _ _ rfl rfl, rfl⟩
  | uArxXor =>
    cases hc
    obtain ⟨p, z, -, -, -, rfl⟩ := execUArxXor_eq_next.mp h
    exact arxXorNext_emitsTag s p z
  | uPacClean =>
    cases hc
    obtain ⟨key, -, ⟨-, -, rfl⟩ | ⟨-, pt, -, -, rfl⟩⟩ := execUPacClean_eq_next.mp h <;>
      exact ⟨_, emitted_of_write _ _ rfl rfl, rfl⟩
  | uPacChar =>
    cases hc
    exact execUPacChar_emitsTag h

/-- Settles O37: the four silent micro-operations, then the nine others. -/
theorem traceRecordsNeverChange : Obligations.TraceRecordsNeverChange := fun _ _ _ _ hc h =>
  ⟨fun hi => silent_sameTrace hi h, fun hi => emitsTag_of_not_silent hc hi h⟩

end Sys2Proof.Machine
end

section
/-! PROOFS. The results of a run depend on its request alone (O46): a relation between two states at the same point of
runs of the same request, kept by every step. -/

namespace Sys2Proof.Machine

/-! ## Runs, step by step -/

theorem endsAfter_zero {u t : State} : EndsAfter 0 u t ↔ t = u ∧ u.STATUS ≠ .busy := by
  constructor
  · rintro ⟨h, hn, -⟩; cases h; exact ⟨rfl, hn⟩
  · rintro ⟨rfl, hn⟩; exact ⟨rfl, hn, fun m hm => absurd hm (Nat.not_lt_zero m)⟩

theorem endsAfter_succ {k : Nat} {u t : State} :
    EndsAfter (k + 1) u t ↔ u.STATUS = .busy ∧ ∃ v, step u = .next v ∧ EndsAfter k v t := by
  constructor
  · rintro ⟨h, hn, hbusy⟩
    obtain ⟨v, hv, hvt⟩ := Res.andThen_eq_next.mp h
    obtain ⟨u0, hu0, hu⟩ := hbusy 0 (Nat.succ_pos k)
    cases hu0
    refine ⟨hu, v, hv, hvt, hn, fun m hm => ?_⟩
    have := hbusy (m + 1) (Nat.succ_lt_succ hm)
    rwa [steps, hv] at this
  · rintro ⟨hu, v, hv, hvt, hn, hbusy⟩
    refine ⟨by rw [steps, hv]; exact hvt, hn, fun m hm => ?_⟩
    cases m with
    | zero => exact ⟨u, rfl, hu⟩
    | succ m => rw [steps, hv]; exact hbusy m (Nat.lt_of_succ_lt_succ hm)

/-! ## Words increased by one -/

theorem Word.succ_toNat_le (v : Word) : (v + 1).toNat ≤ v.toNat + 1 := by
  rw [BitVec.toNat_add]; exact Nat.mod_le _ _

theorem Word.succ_toNat_lt {v n : Word} (h : v.toNat + 1 < n.toNat) : (v + 1).toNat < n.toNat := by
  rwa [Word.succ_toNat (by omega)]

/-- At the last element of a loop below n the counter increased by one is n. -/
theorem Word.succ_eq_of_last {v n : Word} (h : v.toNat < n.toNat) (hlast : ¬ v.toNat + 1 < n.toNat) : v + 1 = n := by
  apply BitVec.eq_of_toNat_eq
  rw [Word.succ_toNat (by have := n.isLt; omega)]
  omega

/-! ## Buffers that agree from element 0 on -/

/-- The two buffers hold the same below element n, a missing value included. -/
def Memory.AgreeBelow {α : Type} (n : Nat) (m m' : Memory α) : Prop := ∀ x, x < n → m'.read x = m.read x

namespace Memory.AgreeBelow

variable {α : Type} {m m' : Memory α} {n : Nat}

theorem zero (m m' : Memory α) : AgreeBelow 0 m m' := fun _ h => absurd h (Nat.not_lt_zero _)

theorem mono {k : Nat} (h : AgreeBelow n m m') (hk : k ≤ n) : AgreeBelow k m m' := fun x hx => h x (by omega)

/-- The same value written at the end of the agreeing part extends it. -/
theorem write_succ (h : AgreeBelow n m m') (v : α) : AgreeBelow (n + 1) (m.write n v) (m'.write n v) := by
  intro x hx
  rw [Memory.read_write, Memory.read_write]
  split
  · rfl
  · exact h x (by omega)

/-- The same where the agreeing part ends at a register: after the write it may be one more, or, from 2^32 − 1 on, any
value at all (assumption 6), since then every element that a register can cover agrees. -/
theorem write_counted {v w : Word} (h : AgreeBelow v.toNat m m') (a : α)
    (hw : v ≠ BitVec.allOnes 32 → w.toNat ≤ v.toNat + 1) :
    AgreeBelow w.toNat (m.write v.toNat a) (m'.write v.toNat a) := by
  refine (h.write_succ a).mono ?_
  by_cases hv : v = BitVec.allOnes 32
  · have := w.isLt
    rw [hv, BitVec.toNat_allOnes]
    omega
  · exact hw hv

/-- The same for a register that is increased modulo 2^32. -/
theorem write_next {v : Word} (h : AgreeBelow v.toNat m m') (a : α) :
    AgreeBelow (v + 1).toNat (m.write v.toNat a) (m'.write v.toNat a) :=
  h.write_counted a fun _ => Word.succ_toNat_le v

theorem writeAll (m m' : Memory α) (vs : List α) : AgreeBelow vs.length (m.writeAll 0 vs) (m'.writeAll 0 vs) := by
  intro x hx
  rw [Memory.read_writeAll, Memory.read_writeAll, if_pos (by omega), if_pos (by omega)]

theorem of_holds {l : List α} (h : m.holds l) (h' : m'.holds l) : AgreeBelow l.length m m' :=
  fun x hx => (h' x hx).trans (h x hx).symm

theorem holds {l : List α} (h : AgreeBelow l.length m m') (hl : m.holds l) : m'.holds l :=
  fun x hx => (h x hx).trans (hl x hx)

theorem filledBelow (h : AgreeBelow n m m') (hf : m.filledBelow n) : m'.filledBelow n := by
  intro x hx
  rw [h x hx]
  exact hf x hx

theorem upTo_eq (h : AgreeBelow n m m') : m'.upTo n = m.upTo n :=
  List.map_congr_left fun x hx => h x (List.mem_range.mp hx)

end Memory.AgreeBelow

theorem State.readBytes_of_agree {s s' : State} {b : ByteBuf} {n : Nat} {l : List Byte}
    (h : Memory.AgreeBelow n (s.buf b) (s'.buf b)) (hr : s.readBytes b 0 n = .next l) :
    s'.readBytes b 0 n = .next l := by
  obtain ⟨hlen, hl⟩ := State.holds_of_readBytes hr
  exact State.readBytes_of_holds hlen.symm ((hlen ▸ h).holds hl)

theorem getS_of_sPrefix {S S' : Vector Byte 256} {n : Nat} (h : sPrefix S' n = sPrefix S n) {x : Byte}
    (hx : x.toNat < n) : getS S' x = getS S x := by
  rw [← sPrefix_getD S' hx, h, sPrefix_getD S hx]

theorem sPrefix_swap_of_sPrefix {S S' : Vector Byte 256} {n : Nat} (h : sPrefix S' n = sPrefix S n) {a b : Byte}
    (ha : a.toNat < n) (hb : b.toNat < n) : sPrefix (swap S' a b) n = sPrefix (swap S a b) n := by
  rw [sPrefix_swap S' ha hb, h, sPrefix_swap S ha hb]

/-! ## Two states at the same point of runs of the same request -/

/-- The same request, as far as the command w reads it (R93, R133). -/
structure RequestAlike (w : Word) (s s' : State) : Prop where
  CMD : s.CMD = w
  CMD' : s'.CMD = w
  PLEN : s'.PLEN = s.PLEN
  KLEN : s'.KLEN = s.KLEN
  PT : Memory.AgreeBelow s.PLEN.toNat s.PT s'.PT
  KEY : Memory.AgreeBelow s.KLEN.toNat s.KEY s'.KEY
  N : cmdOp w = 1 → cmdNv w = true → s'.N = s.N
  NLEN : cmdOp w = 2 → s'.NLEN = s.NLEN
  NONCE : cmdOp w = 2 → Memory.AgreeBelow s.NLEN.toNat s.NONCE s'.NONCE

/-- The same results so far: the registers, and the buffers below their length registers. -/
structure ResultsAlike (s s' : State) : Prop where
  STATUS : s'.STATUS = s.STATUS
  ERR : s'.ERR = s.ERR
  PHASE : s'.PHASE = s.PHASE
  VERIFY_OK : s'.VERIFY_OK = s.VERIFY_OK
  OLEN : s'.OLEN = s.OLEN
  KSLEN : s'.KSLEN = s.KSLEN
  TLEN : s'.TLEN = s.TLEN
  draws : s'.draws = s.draws
  OUT : Memory.AgreeBelow s.OLEN.toNat s.OUT s'.OUT
  KS : Memory.AgreeBelow s.KSLEN.toNat s.KS s'.KS
  TRACE : Memory.AgreeBelow s.TLEN.toNat s.TRACE s'.TRACE

/-- Both runs are in progress at phase p, with the same request and the same results so far. -/
structure AtPhase (w : Word) (p : BitVec 8) (s s' : State) : Prop extends RequestAlike w s s', ResultsAlike s s' where
  phase : s.PHASE = p
  busy : s.STATUS = .busy
  undisturbed : s.undisturbed = true
  undisturbed' : s'.undisturbed = true

/-- What `U_VALIDATE` has checked and the phases after it use (R126). -/
structure Checked (w : Word) (s : State) : Prop where
  text : 0 < s.PLEN.toNat
  nv : cmdOp w = 1 → cmdNv w = true
  size : cmdOp w = 1 → 0 < s.N.toNat

/-- The relation between two runs of one request: for each phase, the working state that it and the phases after it read
(R282) agrees; and after the end the results agree. -/
inductive RunAlike (w : Word) (s s' : State) : Prop
  | validate (h : AtPhase w P_VALIDATE s s')
  | spcInit (h : AtPhase w P_SPC_INIT s s') (o : Checked w s) (op : cmdOp w = 1)
  | ksa (h : AtPhase w P_KSA s s') (o : Checked w s) (op : cmdOp w = 1)
      (S : sPrefix s'.S s.N.toNat = sPrefix s.S s.N.toNat) (J : s'.J = s.J)
      (IDX : s'.IDX = s.IDX) (lt : s.IDX.toNat < s.N.toNat)
  | prgaInit (h : AtPhase w P_PRGA_INIT s s') (o : Checked w s) (op : cmdOp w = 1)
      (S : sPrefix s'.S s.N.toNat = sPrefix s.S s.N.toNat)
  | prga (h : AtPhase w P_PRGA s s') (o : Checked w s) (op : cmdOp w = 1)
      (S : sPrefix s'.S s.N.toNat = sPrefix s.S s.N.toNat) (I : s'.I = s.I) (J : s'.J = s.J)
      (IDX : s'.IDX = s.IDX) (lt : s.IDX.toNat < s.PLEN.toNat)
      (KS : Memory.AgreeBelow s.IDX.toNat s.KS s'.KS) (OUT : Memory.AgreeBelow s.IDX.toNat s.OUT s'.OUT)
  | spcVerify (h : AtPhase w P_SPC_VERIFY s s') (o : Checked w s) (op : cmdOp w = 1)
      (KSLEN : s.KSLEN = s.PLEN) (OLEN : s.OLEN = s.PLEN)
  | arxInit (h : AtPhase w P_ARX_INIT s s') (o : Checked w s) (op : cmdOp w = 2)
  | arxCopy (h : AtPhase w P_ARX_COPY s s') (o : Checked w s) (op : cmdOp w = 2) (MI : s'.MI = s.MI)
  | arxQr (h : AtPhase w P_ARX_QR s s') (o : Checked w s) (op : cmdOp w = 2)
      (MI : s'.MI = s.MI) (MW : s'.MW = s.MW) (QN : s'.QN = s.QN)
  | arxFinal (h : AtPhase w P_ARX_FINAL s s') (o : Checked w s) (op : cmdOp w = 2)
      (MI : s'.MI = s.MI) (MW : s'.MW = s.MW)
  | arxXor (h : AtPhase w P_ARX_XOR s s') (o : Checked w s) (op : cmdOp w = 2)
      (BLOCK : Memory.AgreeBelow 64 s.BLOCK s'.BLOCK) (IDX : s'.IDX = s.IDX) (lt : s.IDX.toNat < s.PLEN.toNat)
      (KS : Memory.AgreeBelow s.IDX.toNat s.KS s'.KS) (OUT : Memory.AgreeBelow s.IDX.toNat s.OUT s'.OUT)
  | pacClean (h : AtPhase w P_PAC_CLEAN s s') (o : Checked w s) (op : cmdOp w ≠ 1 ∧ cmdOp w ≠ 2)
  | pacChar (h : AtPhase w P_PAC_CHAR s s') (o : Checked w s) (op : cmdOp w ≠ 1 ∧ cmdOp w ≠ 2)
      (CLEN : s'.CLEN = s.CLEN) (CKEY : Memory.AgreeBelow s.CLEN.toNat s.CKEY s'.CKEY) (CUR : s'.CUR = s.CUR)
      (IDX : s'.IDX = s.IDX) (lt : s.IDX.toNat < s.PLEN.toNat)
  | ended (h : ResultsAlike s s') (rest : s.STATUS ≠ .busy)
      (REC : s.STATUS = .done → cmdOp w = 1 → Memory.AgreeBelow s.KSLEN.toNat s.REC s'.REC)
      (BLOCK : s.STATUS = .done → cmdOp w = 2 → Memory.AgreeBelow 64 s.BLOCK s'.BLOCK)

section Relation

variable {w : Word} {p : BitVec 8} {s s' : State}

theorem RequestAlike.runRequest_eq (h : RequestAlike w s s') (nv : cmdOp w = 1 → cmdNv w = true) :
    s'.runRequest = s.runRequest := by
  have hN : (if cmdOp w = 1 then some s'.N else none) = if cmdOp w = 1 then some s.N else none := by
    split
    · next op => rw [h.N op (nv op)]
    · rfl
  have hnonce : (if cmdOp w = 2 then s'.NONCE.upTo s'.NLEN.toNat else []) =
      if cmdOp w = 2 then s.NONCE.upTo s.NLEN.toNat else [] := by
    split
    · next op => rw [h.NLEN op, (h.NONCE op).upTo_eq]
    · rfl
  simp only [State.runRequest, h.CMD, h.CMD', h.PLEN, h.KLEN, h.PT.upTo_eq, h.KEY.upTo_eq, hN, hnonce]

/-- The same record on both sides keeps the relation: the counters depend on the request alone (assumption 6). -/
theorem AtPhase.emit (h : AtPhase w p s s') (nv : cmdOp w = 1 → cmdNv w = true) {r r' : TraceRecord} (hr : r' = r) :
    AtPhase w p (s.emit r) (s'.emit r') :=
  have hq := h.runRequest_eq nv
  { h with
    TLEN := by rw [State.emit_TLEN, State.emit_TLEN, hq, h.draws, h.TLEN]
    draws := by rw [State.emit_draws, State.emit_draws, h.draws, h.TLEN]
    TRACE := by
      rw [State.emit_TLEN, State.emit_TRACE, State.emit_TRACE, h.TLEN, hr]
      refine h.TRACE.write_counted r fun hv => ?_
      rw [Counter.succ, if_neg hv, BitVec.toNat_add]
      exact Nat.mod_le _ _ }

theorem AtPhase.goto (h : AtPhase w p s s') (q : BitVec 8) :
    AtPhase w q { s with PHASE := q } { s' with PHASE := q } :=
  { h with PHASE := rfl, phase := rfl }

theorem AtPhase.restart (h : AtPhase w p s s') (q : BitVec 8) :
    AtPhase w q { s with IDX := 0, PHASE := q } { s' with IDX := 0, PHASE := q } :=
  { h with PHASE := rfl, phase := rfl }

theorem AtPhase.raise (h : AtPhase w p s s') (k : ErrKind) : RunAlike w (s.raise k) (s'.raise k) :=
  .ended { h with STATUS := rfl, ERR := rfl, PHASE := rfl } nofun nofun nofun

theorem AtPhase.finish (h : AtPhase w p s s') (REC : cmdOp w = 1 → Memory.AgreeBelow s.KSLEN.toNat s.REC s'.REC)
    (BLOCK : cmdOp w = 2 → Memory.AgreeBelow 64 s.BLOCK s'.BLOCK) : RunAlike w s.finish s'.finish :=
  .ended { h with STATUS := rfl, PHASE := rfl } nofun (fun _ => REC) fun _ => BLOCK

theorem RequestAlike.excess_eq_none (h : RequestAlike w s s') (hs : s.excess = none) : s'.excess = none := by
  obtain ⟨htext, hkey, hsize, harxKey, harxNonce⟩ := State.excess_eq_none.mp hs
  rw [h.CMD] at hsize harxKey harxNonce
  refine State.excess_eq_none.mpr ⟨h.PLEN ▸ htext, h.KLEN ▸ hkey, ?_, ?_, ?_⟩ <;> rw [h.CMD']
  · intro op nv; rw [h.N op nv]; exact hsize op nv
  · intro op; rw [h.KLEN]; exact harxKey op
  · intro op; rw [h.NLEN op]; exact harxNonce op

theorem RequestAlike.unwritten_eq_none (h : RequestAlike w s s') (hs : s.unwritten = none) : s'.unwritten = none := by
  obtain ⟨htext, hkey, hnonce⟩ := State.unwritten_eq_none.mp hs
  rw [h.CMD] at hnonce
  refine State.unwritten_eq_none.mpr ⟨?_, ?_, ?_⟩
  · rw [h.PLEN]; exact h.PT.filledBelow htext
  · rw [h.KLEN]; exact h.KEY.filledBelow hkey
  · rw [h.CMD']; intro op; rw [h.NLEN op]; exact (h.NONCE op).filledBelow (hnonce op)

/-- Both sides take the same branch. -/
theorem RunAlike.ite {c c' : Prop} [Decidable c] [Decidable c'] {u u' : State} (hc : c' ↔ c)
    (htrue : c → RunAlike w s s') (hfalse : ¬ c → RunAlike w u u') :
    RunAlike w (if c then s else u) (if c' then s' else u') := by
  by_cases h : c
  · rw [if_pos h, if_pos (hc.mpr h)]; exact htrue h
  · rw [if_neg h, if_neg fun h' => h (hc.mp h')]; exact hfalse h

/-- A loop over `IDX` that goes on to another phase. -/
theorem RunAlike.loop {c c' : Prop} [Decidable c] [Decidable c'] {v v' : Word} {q : BitVec 8} (hc : c' ↔ c)
    (h : AtPhase w p s s')
    (more : c → AtPhase w p { s with IDX := v } { s' with IDX := v' } →
      RunAlike w { s with IDX := v } { s' with IDX := v' })
    (last : ¬ c → AtPhase w q { s with PHASE := q } { s' with PHASE := q } →
      RunAlike w { s with PHASE := q } { s' with PHASE := q }) :
    RunAlike w (if c then { s with IDX := v } else { s with PHASE := q })
      (if c' then { s' with IDX := v' } else { s' with PHASE := q }) :=
  .ite hc (fun hm => more hm { h with }) fun hl => last hl (h.goto q)

/-- A loop over `IDX` that ends the run. -/
theorem RunAlike.loopFinish {c c' : Prop} [Decidable c] [Decidable c'] {v v' : Word} (hc : c' ↔ c)
    (h : AtPhase w p s s') (hspc : cmdOp w ≠ 1) (BLOCK : cmdOp w = 2 → Memory.AgreeBelow 64 s.BLOCK s'.BLOCK)
    (more : c → AtPhase w p { s with IDX := v } { s' with IDX := v' } →
      RunAlike w { s with IDX := v } { s' with IDX := v' }) :
    RunAlike w (if c then { s with IDX := v } else s.finish) (if c' then { s' with IDX := v' } else s'.finish) :=
  .ite hc (fun hm => more hm { h with }) fun _ => h.finish (fun op => absurd op hspc) BLOCK

end Relation

end Sys2Proof.Machine
end

section
/-! PROOFS. Each micro-operation keeps the relation of two runs of one request. -/

namespace Sys2Proof.Machine

section MicroOperations

variable {w : Word} {s s' t : State}

/-! ## The front end -/

/-- The checks on the operands come out the same on both sides (R126). -/
theorem RunAlike.checkOperands (h : AtPhase w P_VALIDATE s s') : RunAlike w s.checkOperands s'.checkOperands := by
  have hop (n : BitVec 4) : cmdOp s'.CMD = n ↔ cmdOp s.CMD = n := by rw [h.CMD, h.CMD']
  refine .ite (by rw [h.PLEN, h.KLEN]) (fun _ => h.raise _) fun hne => ?_
  have htext : 0 < s.PLEN.toNat := Nat.pos_of_ne_zero fun e => hne (.inl (BitVec.eq_of_toNat_eq e))
  refine .ite (hop 1) (fun hspc => ?_) fun hspc => .ite (hop 2) (fun harx => ?_) fun harx => ?_
  · have hsize : (cmdNv s'.CMD = false ∨ s'.stateSize ≤ 0) ↔ (cmdNv s.CMD = false ∨ s.stateSize ≤ 0) := by
      rw [h.CMD] at hspc
      rw [h.CMD, h.CMD', State.stateSize, State.stateSize]
      cases hnv : cmdNv w with
      | false => simp
      | true => rw [h.N hspc hnv]
    refine .ite hsize (fun _ => h.raise _) fun hok => ?_
    rw [h.CMD] at hspc hok
    obtain ⟨hnv, hpos⟩ := not_or.mp hok
    have hN : 0 < s.N.toNat := Nat.pos_of_ne_zero fun e => hpos (by
      rw [State.stateSize, BitVec.eq_of_toNat_eq (y := 0#32) e]; decide)
    exact .spcInit (h.goto _) ⟨htext, fun _ => by simpa using hnv, fun _ => hN⟩ hspc
  · rw [h.CMD] at hspc harx
    exact .arxInit (h.goto _) ⟨htext, fun op => absurd op hspc, fun op => absurd op hspc⟩ harx
  · rw [h.CMD] at hspc harx
    exact .pacClean (h.goto _) ⟨htext, fun op => absurd op hspc, fun op => absurd op hspc⟩ ⟨hspc, harx⟩

theorem RunAlike.uValidate (h : AtPhase w P_VALIDATE s s') (e : execUValidate s = .next t) :
    ∃ t', execUValidate s' = .next t' ∧ RunAlike w t t' := by
  have hcmd : s'.CMD = s.CMD := h.CMD'.trans h.CMD.symm
  obtain ⟨hillegal, rfl⟩ | ⟨hlegal, hadmitted, hwritten, rfl⟩ := execUValidate_eq_next.mp e
  · exact ⟨_, execUValidate_eq_next.mpr (.inl ⟨hcmd ▸ hillegal, rfl⟩), h.raise _⟩
  · exact ⟨_, execUValidate_eq_next.mpr (.inr ⟨hcmd ▸ hlegal, h.excess_eq_none hadmitted, h.unwritten_eq_none hwritten,
      rfl⟩), .checkOperands h⟩

/-! ## SPC -/

theorem RunAlike.uSpcInit (h : AtPhase w P_SPC_INIT s s') (o : Checked w s) (op : cmdOp w = 1)
    (e : execUSpcInit s = .next t) : ∃ t', execUSpcInit s' = .next t' ∧ RunAlike w t t' := by
  have hN := h.N op (o.nv op)
  obtain ⟨hn, rfl⟩ := execUSpcInit_eq_next.mp e
  refine ⟨_, execUSpcInit_eq_next.mpr ⟨hN ▸ hn, rfl⟩,
    .ksa { h with PHASE := rfl, phase := rfl } { o with } op ?_ rfl rfl (o.size op)⟩
  show sPrefix (identityBelow s'.S s'.N.toNat) s.N.toNat = sPrefix (identityBelow s.S s.N.toNat) s.N.toNat
  rw [hN, sPrefix_identityBelow _ hn, sPrefix_identityBelow _ hn]

/-- The index that a key-schedule iteration swaps with (R152). -/
def ksaIndex (s : State) (n : Nat) (i kb : Byte) : Byte := modIndex (s.J.toNat + (getS s.S i).toNat + kb.toNat) n

theorem RunAlike.uKsaStep (h : AtPhase w P_KSA s s') (o : Checked w s) (op : cmdOp w = 1)
    (S : sPrefix s'.S s.N.toNat = sPrefix s.S s.N.toNat) (J : s'.J = s.J) (IDX : s'.IDX = s.IDX)
    (lt : s.IDX.toNat < s.N.toNat) (e : execUKsaStep s = .next t) :
    ∃ t', execUKsaStep s' = .next t' ∧ RunAlike w t t' := by
  obtain ⟨n, i, kb, rfl, h0, h256, hi, hklen, hkb, rfl⟩ := execUKsaStep_eq_next.mp e
  have hkey : s'.KEY.read (s'.IDX.toNat % s'.KLEN.toNat) = some kb := by
    rw [IDX, h.KLEN, h.KEY _ (Nat.mod_lt _ (Nat.pos_of_ne_zero hklen)), hkb]
  refine ⟨_, execUKsaStep_eq_next.mpr ⟨s.N.toNat, i, kb, by rw [h.N op (o.nv op)], h0, h256, IDX ▸ hi, h.KLEN ▸ hklen,
    hkey, rfl⟩, ?_⟩
  have hlt : i.toNat < s.N.toNat := hi ▸ lt
  have hj : ksaIndex s' s.N.toNat i kb = ksaIndex s s.N.toNat i kb := by
    rw [ksaIndex, J, getS_of_sPrefix S hlt, ksaIndex]
  have hswap : sPrefix (swap s'.S i (ksaIndex s' s.N.toNat i kb)) s.N.toNat =
      sPrefix (swap s.S i (ksaIndex s s.N.toNat i kb)) s.N.toNat := by
    rw [hj]; exact sPrefix_swap_of_sPrefix S hlt (modIndex_lt h0 h256)
  have hrecord : TraceRecord.ksaStep s'.IDX.toNat kb (sPrefix s'.S s.N.toNat) (ksaIndex s' s.N.toNat i kb).toNat
        (sPrefix (swap s'.S i (ksaIndex s' s.N.toNat i kb)) s.N.toNat) =
      .ksaStep s.IDX.toNat kb (sPrefix s.S s.N.toNat) (ksaIndex s s.N.toNat i kb).toNat
        (sPrefix (swap s.S i (ksaIndex s s.N.toNat i kb)) s.N.toNat) := by
    rw [IDX, S, hswap, hj]
  refine .loop (p := P_KSA) (by rw [IDX]) (.emit ?_ o.nv hrecord) (fun hmore hem => ?_)
    fun _ hem => .prgaInit hem { o with } op hswap
  · exact { h with }
  · have hidx : (s.IDX + 1).toNat < s.N.toNat := by rw [Word.succ_toNat (by omega)]; exact hmore
    exact .ksa hem { o with } op hswap hj (congrArg (· + 1) IDX) hidx

theorem RunAlike.uPrgaInit (h : AtPhase w P_PRGA_INIT s s') (o : Checked w s) (op : cmdOp w = 1)
    (S : sPrefix s'.S s.N.toNat = sPrefix s.S s.N.toNat) (e : execUPrgaInit s = .next t) :
    ∃ t', execUPrgaInit s' = .next t' ∧ RunAlike w t t' := by
  obtain rfl := execUPrgaInit_eq_next.mp e
  exact ⟨_, execUPrgaInit_eq_next.mpr rfl,
    .prga { h with PHASE := rfl, phase := rfl } { o with } op S rfl rfl rfl o.text (.zero _ _) (.zero _ _)⟩

/-! What one step of the generator computes (R154). -/

def prgaI (s : State) (n : Nat) : Byte := modIndex (s.I.toNat + 1) n

def prgaJ (s : State) (n : Nat) : Byte := modIndex (s.J.toNat + (getS s.S (prgaI s n)).toNat) n

def prgaS (s : State) (n : Nat) : Vector Byte 256 := swap s.S (prgaI s n) (prgaJ s n)

def prgaT (s : State) (n : Nat) : Byte :=
  modIndex ((getS (prgaS s n) (prgaI s n)).toNat + (getS (prgaS s n) (prgaJ s n)).toNat) n

def prgaZ (s : State) (n : Nat) : Byte := getS (prgaS s n) (prgaT s n)

def prgaEmitted (s : State) (n : Nat) (p : Byte) : TraceRecord :=
  .prgaStep s.IDX.toNat (prgaI s n).toNat (prgaJ s n).toNat (getS (prgaS s n) (prgaI s n))
    (getS (prgaS s n) (prgaJ s n)) (prgaT s n).toNat (prgaZ s n) p (p ^^^ prgaZ s n) (sPrefix (prgaS s n) n)

/-- A step of the generator does not depend on the elements of `S` at or above the stateSize. -/
structure GeneratorAlike (n : Nat) (s s' : State) : Prop where
  I : prgaI s' n = prgaI s n
  J : prgaJ s' n = prgaJ s n
  S : sPrefix (prgaS s' n) n = sPrefix (prgaS s n) n
  Z : prgaZ s' n = prgaZ s n
  record (p : Byte) : prgaEmitted s' n p = prgaEmitted s n p

theorem generatorAlike {n : Nat} (h0 : 0 < n) (h256 : n ≤ 256) (S : sPrefix s'.S n = sPrefix s.S n) (I : s'.I = s.I)
    (J : s'.J = s.J) (IDX : s'.IDX = s.IDX) : GeneratorAlike n s s' := by
  have hltI : (prgaI s n).toNat < n := modIndex_lt h0 h256
  have hltJ : (prgaJ s n).toNat < n := modIndex_lt h0 h256
  have hltT : (prgaT s n).toNat < n := modIndex_lt h0 h256
  have hI : prgaI s' n = prgaI s n := by rw [prgaI, I, prgaI]
  have hJ : prgaJ s' n = prgaJ s n := by rw [prgaJ, hI, J, getS_of_sPrefix S hltI, prgaJ]
  have hS : sPrefix (prgaS s' n) n = sPrefix (prgaS s n) n := by
    rw [prgaS, hI, hJ]; exact sPrefix_swap_of_sPrefix S hltI hltJ
  have hT : prgaT s' n = prgaT s n := by
    rw [prgaT, hI, hJ, getS_of_sPrefix hS hltI, getS_of_sPrefix hS hltJ, prgaT]
  have hZ : prgaZ s' n = prgaZ s n := by rw [prgaZ, hT, getS_of_sPrefix hS hltT, prgaZ]
  refine ⟨hI, hJ, hS, hZ, fun p => ?_⟩
  rw [prgaEmitted, IDX, hI, hJ, hT, hZ, hS, getS_of_sPrefix hS hltI, getS_of_sPrefix hS hltJ, prgaEmitted]

theorem RunAlike.uPrgaStep (h : AtPhase w P_PRGA s s') (o : Checked w s) (op : cmdOp w = 1)
    (S : sPrefix s'.S s.N.toNat = sPrefix s.S s.N.toNat) (I : s'.I = s.I) (J : s'.J = s.J) (IDX : s'.IDX = s.IDX)
    (lt : s.IDX.toNat < s.PLEN.toNat) (KS : Memory.AgreeBelow s.IDX.toNat s.KS s'.KS)
    (OUT : Memory.AgreeBelow s.IDX.toNat s.OUT s'.OUT) (e : execUPrgaStep s = .next t) :
    ∃ t', execUPrgaStep s' = .next t' ∧ RunAlike w t t' := by
  obtain ⟨n, p, rfl, h0, h256, hp, hfit, rfl⟩ := execUPrgaStep_eq_next.mp e
  refine ⟨_, execUPrgaStep_eq_next.mpr ⟨s.N.toNat, p, by rw [h.N op (o.nv op)], h0, h256, by rw [IDX, h.PT _ lt, hp],
    IDX ▸ hfit, rfl⟩, ?_⟩
  obtain ⟨hI, hJ, hS, hZ, hrecord⟩ := generatorAlike h0 h256 S I J IDX
  have hidx : s'.IDX + 1 = s.IDX + 1 := congrArg (· + 1) IDX
  have hKS : Memory.AgreeBelow (s.IDX + 1).toNat (s.KS.write s.IDX.toNat (prgaZ s s.N.toNat))
      (s'.KS.write s'.IDX.toNat (prgaZ s' s.N.toNat)) := by
    rw [IDX, hZ]; exact KS.write_next _
  have hOUT : Memory.AgreeBelow (s.IDX + 1).toNat (s.OUT.write s.IDX.toNat (p ^^^ prgaZ s s.N.toNat))
      (s'.OUT.write s'.IDX.toNat (p ^^^ prgaZ s' s.N.toNat)) := by
    rw [IDX, hZ]; exact OUT.write_next _
  refine .loop (p := P_PRGA) (by rw [IDX, h.PLEN]) (.emit ?_ o.nv (hrecord p)) (fun hmore hem => ?_) fun hlast hem => ?_
  · exact { h with KSLEN := hidx, OLEN := hidx, KS := hKS, OUT := hOUT }
  · exact .prga hem { o with } op hS hI hJ hidx (Word.succ_toNat_lt hmore) hKS hOUT
  · have hlen : s.IDX + 1 = s.PLEN := Word.succ_eq_of_last lt hlast
    exact .spcVerify hem { o with } op hlen hlen

theorem RunAlike.uSpcVerify (h : AtPhase w P_SPC_VERIFY s s') (o : Checked w s) (op : cmdOp w = 1)
    (KSLEN : s.KSLEN = s.PLEN) (OLEN : s.OLEN = s.PLEN) (e : execUSpcVerify s = .next t) :
    ∃ t', execUSpcVerify s' = .next t' ∧ RunAlike w t t' := by
  obtain ⟨out, ks, pt, ⟨hout, hout'⟩, ⟨hks, hks'⟩, ⟨hpt, hpt'⟩, hfit, rfl⟩ := execUSpcVerify_eq_next.mp e
  have hO : s'.OUT.holds out := Memory.AgreeBelow.holds (by rw [hout, ← OLEN]; exact h.OUT) hout'
  have hK : s'.KS.holds ks := Memory.AgreeBelow.holds (by rw [hks, ← KSLEN]; exact h.KS) hks'
  have hP : s'.PT.holds pt := Memory.AgreeBelow.holds (by rw [hpt]; exact h.PT) hpt'
  have hREC : Memory.AgreeBelow s.KSLEN.toNat (s.REC.writeAll 0 (List.zipWith (· ^^^ ·) out ks))
      (s'.REC.writeAll 0 (List.zipWith (· ^^^ ·) out ks)) :=
    (Memory.AgreeBelow.writeAll _ _ _).mono (by rw [List.length_zipWith, hout, hks, Nat.min_self, KSLEN])
  rw [← h.PLEN] at hout hks hpt hfit
  refine ⟨_, execUSpcVerify_eq_next.mpr ⟨out, ks, pt, ⟨hout, hO⟩, ⟨hks, hK⟩, ⟨hpt, hP⟩, hfit, rfl⟩,
    AtPhase.finish (p := P_SPC_VERIFY) (.emit ?_ o.nv rfl) (fun _ => hREC)
      fun arx => absurd (op.symm.trans arx) (by decide)⟩
  exact { h with VERIFY_OK := rfl }

/-! ## ARX -/

theorem RunAlike.uArxInit (h : AtPhase w P_ARX_INIT s s') (o : Checked w s) (op : cmdOp w = 2)
    (e : execUArxInit s = .next t) : ∃ t', execUArxInit s' = .next t' ∧ RunAlike w t t' := by
  obtain ⟨key, nonce, hkey, hnonce, rfl⟩ := execUArxInit_eq_next.mp e
  have hkey' : s'.keyHead = .next key := by
    rw [State.keyHead, h.KLEN]
    exact State.readBytes_of_agree (h.KEY.mono (Nat.min_le_left _ _)) hkey
  have hnonce' : s'.nonceHead = .next nonce := by
    rw [State.nonceHead, h.NLEN op]
    exact State.readBytes_of_agree ((h.NONCE op).mono (Nat.min_le_left _ _)) hnonce
  refine ⟨_, execUArxInit_eq_next.mpr ⟨key, nonce, hkey', hnonce', rfl⟩,
    .arxCopy (.goto (.emit (p := P_ARX_INIT) ?_ o.nv rfl) _) { o with } op rfl⟩
  exact { h with }

theorem RunAlike.uArxCopy (h : AtPhase w P_ARX_COPY s s') (o : Checked w s) (op : cmdOp w = 2) (MI : s'.MI = s.MI)
    (e : execUArxCopy s = .next t) : ∃ t', execUArxCopy s' = .next t' ∧ RunAlike w t t' := by
  obtain rfl := execUArxCopy_eq_next.mp e
  exact ⟨_, execUArxCopy_eq_next.mpr rfl, .arxQr { h with PHASE := rfl, phase := rfl } { o with } op MI MI rfl⟩

/-- The record of a quarter-round (R187, R108). -/
def arxQrEmitted (s : State) : TraceRecord :=
  let g := group (slotOf s.QN.toNat)
  let steps := qrSteps s.MW[g.a] s.MW[g.b] s.MW[g.c] s.MW[g.d]
  .arxQr s.QN.toNat g.a.val g.b.val g.c.val g.d.val s.MW[g.a] s.MW[g.b] s.MW[g.c] s.MW[g.d] steps
    steps[6] steps[11] steps[9] steps[8] (quarterRoundAt s.MW g)

theorem RunAlike.uArxQr (h : AtPhase w P_ARX_QR s s') (o : Checked w s) (op : cmdOp w = 2) (MI : s'.MI = s.MI)
    (MW : s'.MW = s.MW) (QN : s'.QN = s.QN) (e : execUArxQr s = .next t) :
    ∃ t', execUArxQr s' = .next t' ∧ RunAlike w t t' := by
  obtain rfl := execUArxQr_eq_next.mp e
  have hrecord : arxQrEmitted s' = arxQrEmitted s := by simp only [arxQrEmitted, QN, MW]
  have hmw : quarterRoundAt s'.MW (group (slotOf s'.QN.toNat)) = quarterRoundAt s.MW (group (slotOf s.QN.toNat)) := by
    rw [QN, MW]
  have hem : AtPhase w P_ARX_QR
      ({ s with MW := quarterRoundAt s.MW (group (slotOf s.QN.toNat)) }.emit (arxQrEmitted s))
      ({ s' with MW := quarterRoundAt s'.MW (group (slotOf s'.QN.toNat)) }.emit (arxQrEmitted s')) := by
    refine .emit ?_ o.nv hrecord
    exact { h with }
  exact ⟨_, execUArxQr_eq_next.mpr rfl, .ite (by rw [QN])
    (fun _ => .arxQr { hem with } { o with } op MI hmw (congrArg (· + 1) QN))
    fun _ => .arxFinal (hem.goto _) { o with } op MI hmw⟩

theorem RunAlike.uArxFinal (h : AtPhase w P_ARX_FINAL s s') (o : Checked w s) (op : cmdOp w = 2) (MI : s'.MI = s.MI)
    (MW : s'.MW = s.MW) (e : execUArxFinal s = .next t) : ∃ t', execUArxFinal s' = .next t' ∧ RunAlike w t t' := by
  obtain rfl := execUArxFinal_eq_next.mp e
  have hsum : matrixSum s'.MW s'.MI = matrixSum s.MW s.MI := by rw [MW, MI]
  have hBLOCK : Memory.AgreeBelow 64 (s.BLOCK.writeAll 0 (serialize (matrixSum s.MW s.MI)))
      (s'.BLOCK.writeAll 0 (serialize (matrixSum s'.MW s'.MI))) := by
    rw [hsum, ← serialize_length (matrixSum s.MW s.MI)]; exact .writeAll _ _ _
  refine ⟨_, execUArxFinal_eq_next.mpr rfl, .arxXor (.restart (.emit (p := P_ARX_FINAL) ?_ o.nv (by rw [hsum, MW])) _)
    { o with } op hBLOCK rfl o.text (.zero _ _) (.zero _ _)⟩
  exact { h with }

theorem RunAlike.uArxXor (h : AtPhase w P_ARX_XOR s s') (o : Checked w s) (op : cmdOp w = 2)
    (BLOCK : Memory.AgreeBelow 64 s.BLOCK s'.BLOCK) (IDX : s'.IDX = s.IDX) (lt : s.IDX.toNat < s.PLEN.toNat)
    (KS : Memory.AgreeBelow s.IDX.toNat s.KS s'.KS) (OUT : Memory.AgreeBelow s.IDX.toNat s.OUT s'.OUT)
    (e : execUArxXor s = .next t) : ∃ t', execUArxXor s' = .next t' ∧ RunAlike w t t' := by
  obtain ⟨p, z, hp, hz, hfit, rfl⟩ := execUArxXor_eq_next.mp e
  have hz' : s'.BLOCK.read (s'.IDX.toNat % 64) = some z := by rw [IDX, BLOCK _ (Nat.mod_lt _ (by omega)), hz]
  refine ⟨_, execUArxXor_eq_next.mpr ⟨p, z, by rw [IDX, h.PT _ lt, hp], hz', IDX ▸ hfit, rfl⟩, ?_⟩
  have hidx : s'.IDX + 1 = s.IDX + 1 := congrArg (· + 1) IDX
  have hKS : Memory.AgreeBelow (s.IDX + 1).toNat (s.KS.write s.IDX.toNat z) (s'.KS.write s'.IDX.toNat z) := by
    rw [IDX]; exact KS.write_next _
  have hOUT : Memory.AgreeBelow (s.IDX + 1).toNat (s.OUT.write s.IDX.toNat (p ^^^ z))
      (s'.OUT.write s'.IDX.toNat (p ^^^ z)) := by
    rw [IDX]; exact OUT.write_next _
  refine .loopFinish (p := P_ARX_XOR) (by rw [IDX, h.PLEN]) (.emit ?_ o.nv (by rw [IDX])) (by rw [op]; decide)
    (fun _ => BLOCK) fun hmore hem => ?_
  · exact { h with KSLEN := hidx, OLEN := hidx, KS := hKS, OUT := hOUT }
  · exact .arxXor hem { o with } op BLOCK hidx (Word.succ_toNat_lt hmore) hKS hOUT

/-! ## PAC -/

theorem RunAlike.uPacClean (h : AtPhase w P_PAC_CLEAN s s') (o : Checked w s) (op : cmdOp w ≠ 1 ∧ cmdOp w ≠ 2)
    (e : execUPacClean s = .next t) : ∃ t', execUPacClean s' = .next t' ∧ RunAlike w t t' := by
  have hem (ckey : List Byte) : AtPhase w P_PAC_CLEAN (pacCleaned s ckey) (pacCleaned s' ckey) := by
    refine .emit ?_ o.nv rfl
    exact { h with }
  obtain ⟨key, ⟨hlen, hkey⟩, hcases⟩ := execUPacClean_eq_next.mp e
  have hkey' : key.length = s'.KLEN.toNat ∧ s'.KEY.holds key :=
    ⟨h.KLEN ▸ hlen, Memory.AgreeBelow.holds (by rw [hlen]; exact h.KEY) hkey⟩
  obtain ⟨hc, hfit, rfl⟩ | ⟨hc, pt, ⟨hptlen, hpt⟩, hfit, rfl⟩ := hcases
  · refine ⟨_, execUPacClean_eq_next.mpr ⟨key, hkey', .inl ⟨hc, hfit, rfl⟩⟩,
      .pacChar { hem (cleanKey key) with PHASE := rfl, phase := rfl } { o with } op rfl ?_ rfl rfl o.text⟩
    refine (Memory.AgreeBelow.writeAll s.CKEY s'.CKEY (cleanKey key)).mono ?_
    exact BitVec.toNat_ofNat _ 32 ▸ Nat.mod_le _ _
  · have hpt' : pt.length = s'.PLEN.toNat ∧ s'.PT.holds pt :=
      ⟨h.PLEN ▸ hptlen, Memory.AgreeBelow.holds (by rw [hptlen]; exact h.PT) hpt⟩
    have hOUT : Memory.AgreeBelow s.PLEN.toNat (s.OUT.writeAll 0 pt) (s'.OUT.writeAll 0 pt) :=
      hptlen ▸ Memory.AgreeBelow.writeAll _ _ _
    refine ⟨_, execUPacClean_eq_next.mpr ⟨key, hkey', .inr ⟨hc, pt, hpt', hfit, rfl⟩⟩,
      AtPhase.raise (p := P_PAC_CLEAN) ?_ _⟩
    exact { hem [] with OLEN := h.PLEN, OUT := hOUT }

/-- The end of a character on both sides: s1 and s1' are the states before the loop is closed. -/
theorem RunAlike.pacLoop {s1 s1' : State} (h : AtPhase w P_PAC_CHAR s1 s1') (o : Checked w s1)
    (op : cmdOp w ≠ 1 ∧ cmdOp w ≠ 2) (CLEN : s1'.CLEN = s1.CLEN)
    (CKEY : Memory.AgreeBelow s1.CLEN.toNat s1.CKEY s1'.CKEY) (CUR : s1'.CUR = s1.CUR) (IDX : s'.IDX = s.IDX)
    (PLEN : s1.PLEN = s.PLEN) (PLEN' : s'.PLEN = s.PLEN) : RunAlike w (pacLoop s s1) (pacLoop s' s1') :=
  .loopFinish (by rw [IDX, PLEN']) h op.1 (fun arx => absurd arx op.2) fun hmore hem =>
    .pacChar hem { o with } op CLEN CKEY CUR (congrArg (· + 1) IDX) (PLEN ▸ Word.succ_toNat_lt hmore)

theorem AtPhase.pacAppended (h : AtPhase w P_PAC_CHAR s s') (c : Byte) :
    AtPhase w P_PAC_CHAR (pacAppended s c) (pacAppended s' c) :=
  { h with
    OLEN := congrArg (· + 1) h.OLEN
    OUT := by
      show Memory.AgreeBelow (s.OLEN + 1).toNat (s.OUT.write s.OLEN.toNat c) (s'.OUT.write s'.OLEN.toNat c)
      rw [h.OLEN]; exact h.OUT.write_next c }

/-- The letter that `U_PAC_CHAR` writes (R223 to R225). -/
def pacShifted (s : State) (c kl : Byte) : Byte :=
  letterAt (outputPos (pacModeOfBit (cmdModeBit s.CMD)) (letterPos (upper c)) (letterPos kl)) (isLower c)

/-- The record of that letter (R112). -/
def pacLetterEmitted (s : State) (c kl : Byte) : TraceRecord :=
  .pacChar s.IDX.toNat c (.letter (isLower c) (letterPos (upper c)) s.CUR.toNat (s.CUR.toNat % s.CLEN.toNat) kl
    (letterPos kl) (outputPos (pacModeOfBit (cmdModeBit s.CMD)) (letterPos (upper c)) (letterPos kl))
    (pacShifted s c kl))

@[simp] theorem pacLetterNext_N (s : State) (c kl : Byte) : (pacLetterNext s c kl).N = s.N := by
  simp [pacLetterNext, pacAppended]
@[simp] theorem pacLetterNext_PLEN (s : State) (c kl : Byte) : (pacLetterNext s c kl).PLEN = s.PLEN := by
  simp [pacLetterNext, pacAppended]
@[simp] theorem pacLetterNext_CKEY (s : State) (c kl : Byte) : (pacLetterNext s c kl).CKEY = s.CKEY := by
  simp [pacLetterNext, pacAppended]
@[simp] theorem pacLetterNext_CLEN (s : State) (c kl : Byte) : (pacLetterNext s c kl).CLEN = s.CLEN := by
  simp [pacLetterNext, pacAppended]

theorem AtPhase.pacLetterNext (h : AtPhase w P_PAC_CHAR s s') (o : Checked w s) (CLEN : s'.CLEN = s.CLEN)
    (CUR : s'.CUR = s.CUR) (IDX : s'.IDX = s.IDX) (c kl : Byte) :
    AtPhase w P_PAC_CHAR (pacLetterNext s c kl) (pacLetterNext s' c kl) ∧
      (pacLetterNext s' c kl).CUR = (pacLetterNext s c kl).CUR := by
  have hcmd : s'.CMD = s.CMD := h.CMD'.trans h.CMD.symm
  have hshift : pacShifted s' c kl = pacShifted s c kl := by rw [pacShifted, hcmd, pacShifted]
  have hrecord : pacLetterEmitted s' c kl = pacLetterEmitted s c kl := by
    rw [pacLetterEmitted, IDX, CUR, CLEN, hcmd, hshift, pacLetterEmitted]
  have hem : AtPhase w P_PAC_CHAR ((Machine.pacAppended s (pacShifted s c kl)).emit (pacLetterEmitted s c kl))
      ((Machine.pacAppended s' (pacShifted s' c kl)).emit (pacLetterEmitted s' c kl)) := by
    rw [hshift]; exact (h.pacAppended _).emit o.nv hrecord
  have hdraws := hem.draws
  have hcur (d d' : Nat) (hd : d' = d) :
      Counter.succ .cur s'.runRequest d' s'.CUR = Counter.succ .cur s.runRequest d s.CUR := by
    rw [h.runRequest_eq o.nv, hd, CUR]
  constructor
  · exact { hem with draws := congrArg₂ drawsAfter hdraws CUR }
  · exact hcur _ _ hdraws

theorem RunAlike.uPacChar (h : AtPhase w P_PAC_CHAR s s') (o : Checked w s) (op : cmdOp w ≠ 1 ∧ cmdOp w ≠ 2)
    (CLEN : s'.CLEN = s.CLEN) (CKEY : Memory.AgreeBelow s.CLEN.toNat s.CKEY s'.CKEY) (CUR : s'.CUR = s.CUR)
    (IDX : s'.IDX = s.IDX) (lt : s.IDX.toNat < s.PLEN.toNat) (e : execUPacChar s = .next t) :
    ∃ t', execUPacChar s' = .next t' ∧ RunAlike w t t' := by
  have hcmd : s'.CMD = s.CMD := h.CMD'.trans h.CMD.symm
  obtain ⟨c, hc, hcases⟩ := execUPacChar_eq_next.mp e
  have hc' : s'.PT.read s'.IDX.toNat = some c := by rw [IDX, h.PT _ lt, hc]
  rw [← h.OLEN] at hcases
  obtain ⟨hl, hfit, hclen, kl, hkl, hu, rfl⟩ | ⟨hl, hp, hfit, rfl⟩ | ⟨hl, hp, rfl⟩ := hcases
  · have hkl' : s'.CKEY.read (s'.CUR.toNat % s'.CLEN.toNat) = some kl := by
      rw [CUR, CLEN, CKEY _ (Nat.mod_lt _ (Nat.pos_of_ne_zero hclen)), hkl]
    obtain ⟨hem, hcur⟩ := h.pacLetterNext o CLEN CUR IDX c kl
    exact ⟨_, execUPacChar_eq_next.mpr ⟨c, hc', .inl ⟨hl, hfit, CLEN ▸ hclen, kl, hkl', hu, rfl⟩⟩,
      .pacLoop hem ⟨by simpa using o.text, o.nv, by simpa using o.size⟩ op (by simpa using CLEN)
        (by simpa using CKEY) hcur IDX (by simp) h.PLEN⟩
  · exact ⟨_, execUPacChar_eq_next.mpr ⟨c, hc', .inr (.inl ⟨hl, hcmd ▸ hp, hfit, rfl⟩)⟩,
      .pacLoop ((h.pacAppended c).emit o.nv (by rw [IDX])) { o with } op CLEN CKEY CUR IDX rfl h.PLEN⟩
  · exact ⟨_, execUPacChar_eq_next.mpr ⟨c, hc', .inr (.inr ⟨hl, hcmd ▸ hp, rfl⟩)⟩,
      .pacLoop (h.emit o.nv (by rw [IDX])) { o with } op CLEN CKEY CUR IDX rfl h.PLEN⟩

end MicroOperations

/-! ## Whole runs -/

theorem sequencerMove_of_phase {s : State} {p : BitVec 8} {i : Instr} (hp : s.PHASE = p) (hi : decodeUop p = .ok i) :
    sequencerMove s = exec i s := by
  rw [sequencerMove, hp, hi]

section Runs

variable {w : Word} {p : BitVec 8} {s s' t : State}

/-- A step of both runs is the micro-operation of their phase. -/
theorem AtPhase.step (h : AtPhase w p s s') {i : Instr} (hi : decodeUop p = .ok i)
    (hexec : exec i s = .next t → ∃ t', exec i s' = .next t' ∧ RunAlike w t t') (e : step s = .next t) :
    ∃ t', step s' = .next t' ∧ RunAlike w t t' := by
  rw [step_of_busy h.busy h.undisturbed, sequencerMove_of_phase h.phase hi] at e
  rw [step_of_busy (h.STATUS.trans h.busy) h.undisturbed', sequencerMove_of_phase (h.PHASE.trans h.phase) hi]
  exact hexec e

theorem RunAlike.step (h : RunAlike w s s') (hb : s.STATUS = .busy) (e : step s = .next t) :
    ∃ t', step s' = .next t' ∧ RunAlike w t t' := by
  cases h with
  | validate h => exact h.step (i := .uValidate) rfl (uValidate h) e
  | spcInit h o op => exact h.step (i := .uSpcInit) rfl (uSpcInit h o op) e
  | ksa h o op S J IDX lt => exact h.step (i := .uKsaStep) rfl (uKsaStep h o op S J IDX lt) e
  | prgaInit h o op S => exact h.step (i := .uPrgaInit) rfl (uPrgaInit h o op S) e
  | prga h o op S I J IDX lt KS OUT => exact h.step (i := .uPrgaStep) rfl (uPrgaStep h o op S I J IDX lt KS OUT) e
  | spcVerify h o op KSLEN OLEN => exact h.step (i := .uSpcVerify) rfl (uSpcVerify h o op KSLEN OLEN) e
  | arxInit h o op => exact h.step (i := .uArxInit) rfl (uArxInit h o op) e
  | arxCopy h o op MI => exact h.step (i := .uArxCopy) rfl (uArxCopy h o op MI) e
  | arxQr h o op MI MW QN => exact h.step (i := .uArxQr) rfl (uArxQr h o op MI MW QN) e
  | arxFinal h o op MI MW => exact h.step (i := .uArxFinal) rfl (uArxFinal h o op MI MW) e
  | arxXor h o op BLOCK IDX lt KS OUT => exact h.step (i := .uArxXor) rfl (uArxXor h o op BLOCK IDX lt KS OUT) e
  | pacClean h o op => exact h.step (i := .uPacClean) rfl (uPacClean h o op) e
  | pacChar h o op CLEN CKEY CUR IDX lt => exact h.step (i := .uPacChar) rfl (uPacChar h o op CLEN CKEY CUR IDX lt) e
  | ended h rest REC BLOCK => exact absurd hb rest

theorem RunAlike.results (h : RunAlike w s s') : ResultsAlike s s' := by
  cases h
  case ended h _ _ _ => exact h
  all_goals exact (‹AtPhase w _ s s'›).toResultsAlike

/-- At the end the buffers of which the host may read only after a DONE agree too (R123). -/
theorem RunAlike.doneBuffers (h : RunAlike w s s') (rest : s.STATUS ≠ .busy) (done : s.STATUS = .done) :
    (cmdOp w = 1 → Memory.AgreeBelow s.KSLEN.toNat s.REC s'.REC) ∧
      (cmdOp w = 2 → Memory.AgreeBelow 64 s.BLOCK s'.BLOCK) := by
  cases h
  case ended REC BLOCK => exact ⟨REC done, BLOCK done⟩
  all_goals exact absurd (‹AtPhase w _ s s'›).busy rest

/-- Where one run ends, the other ends after as many steps, and the two ends are alike. -/
theorem RunAlike.endsAfter {k : Nat} (h : RunAlike w s s') (e : EndsAfter k s t) :
    ∃ t', EndsAfter k s' t' ∧ RunAlike w t t' := by
  induction k generalizing s s' with
  | zero =>
    obtain ⟨rfl, hrest⟩ := endsAfter_zero.mp e
    exact ⟨s', endsAfter_zero.mpr ⟨rfl, h.results.STATUS ▸ hrest⟩, h⟩
  | succ k ih =>
    obtain ⟨hb, v, hv, hvt⟩ := endsAfter_succ.mp e
    obtain ⟨v', hv', hvv'⟩ := h.step hb hv
    obtain ⟨t', ht', htt'⟩ := ih hvv' hvt
    exact ⟨t', endsAfter_succ.mpr ⟨h.results.STATUS.trans hb, v', hv', ht'⟩, htt'⟩

end Runs

theorem eq_runSpc_of_encode {i : Instr} {w : Word} (h : encode i = .cmd w) (op : cmdOp w = 1) (nv : cmdNv w = true) :
    i = .runSpc true := by
  cases i with
  | runSpc b => cases h; cases b with
    | false => exact absurd nv (by decide)
    | true => rfl
  | runArx => cases h; exact absurd op (by decide)
  | runPac mode preserve => cases h; cases mode <;> cases preserve <;> exact absurd op (by decide)
  | _ => cases h

theorem eq_runArx_of_encode {i : Instr} {w : Word} (h : encode i = .cmd w) (op : cmdOp w = 2) : i = .runArx := by
  cases i with
  | runSpc b => cases h; cases b <;> exact absurd op (by decide)
  | runArx => rfl
  | runPac mode preserve => cases h; cases mode <;> cases preserve <;> exact absurd op (by decide)
  | _ => cases h

/-- H_START of a command on two states that hold the same request. -/
theorem RunAlike.of_start {s s' : State} {pt key nonce : List Byte} {i : Instr} {w : Word} (hw : encode i = .cmd w)
    (hu : s.undisturbed = true) (hu' : s'.undisturbed = true) (hs : Loaded s pt key) (hs' : Loaded s' pt key)
    (hnonce : i = .runArx → LoadedNonce s nonce ∧ LoadedNonce s' nonce) (hN : i = .runSpc true → s'.N = s.N) :
    RunAlike w { s.clearResults with CMD := w, PHASE := P_VALIDATE, STATUS := .busy, draws := 0 }
      { s'.clearResults with CMD := w, PHASE := P_VALIDATE, STATUS := .busy, draws := 0 } :=
  .validate
    { CMD := rfl
      CMD' := rfl
      PLEN := BitVec.eq_of_toNat_eq (hs'.PLEN.trans hs.PLEN.symm)
      KLEN := BitVec.eq_of_toNat_eq (hs'.KLEN.trans hs.KLEN.symm)
      PT := hs.PLEN ▸ Memory.AgreeBelow.of_holds hs.PT hs'.PT
      KEY := hs.KLEN ▸ Memory.AgreeBelow.of_holds hs.KEY hs'.KEY
      N := fun op nv => hN (eq_runSpc_of_encode hw op nv)
      NLEN := fun op =>
        have ⟨h, h'⟩ := hnonce (eq_runArx_of_encode hw op)
        BitVec.eq_of_toNat_eq (h'.NLEN.trans h.NLEN.symm)
      NONCE := fun op =>
        have ⟨h, h'⟩ := hnonce (eq_runArx_of_encode hw op)
        h.NLEN ▸ Memory.AgreeBelow.of_holds h.NONCE h'.NONCE
      STATUS := rfl
      ERR := rfl
      PHASE := rfl
      VERIFY_OK := rfl
      OLEN := rfl
      KSLEN := rfl
      TLEN := rfl
      draws := rfl
      OUT := .zero _ _
      KS := .zero _ _
      TRACE := .zero _ _
      phase := rfl
      busy := rfl
      undisturbed := hu
      undisturbed' := hu' }

/-- Settles O46: the states after H_START are related, the relation is kept to the end, and there it says that the
results agree. -/
theorem resultsDoNotDependOnEarlierRuns : Obligations.ResultsDoNotDependOnEarlierRuns := by
  intro s s' u t pt key nonce i w k hw _ hn' hu hu' hs hs' hnonce hN hstart hend
  rw [exec_of_encode_cmd hw] at hstart
  obtain ⟨-, rfl⟩ := hStart_eq_next.mp hstart
  obtain ⟨t', hend', halike⟩ := (RunAlike.of_start hw hu hu' hs hs' hnonce hN).endsAfter hend
  have hr := halike.results
  obtain ⟨-, hrest, -⟩ := hend
  refine ⟨_, t', (exec_of_encode_cmd hw s').trans (hStart_eq_next.mpr ⟨hn', rfl⟩), hend', hr.STATUS, hr.ERR,
    hr.VERIFY_OK, hr.OLEN, hr.KSLEN, hr.TLEN, hr.OUT, hr.KS, hr.TRACE, fun hi hdone => ?_, fun hi hdone => ?_⟩
  · subst hi; cases hw
    exact (halike.doneBuffers hrest hdone).1 (by decide)
  · subst hi; cases hw
    exact (halike.doneBuffers hrest hdone).2 (by decide)

end Sys2Proof.Machine
end

section
/-! PROOFS. No micro-operation touches what belongs to the host (O35), so during a run a host that waits is left alone
(O34). -/

namespace Sys2Proof.Machine

/-! ## What belongs to the host -/

/-- The state with everything cleared but the request and what lies outside CORE: what a micro-operation leaves (R134).
Two states with the same host side agree on each of its fields (`fields_of_hostSide`). -/
def State.hostSide (s : State) : State :=
  { State.reset with
    CMD := s.CMD, N := s.N, PLEN := s.PLEN, KLEN := s.KLEN, NLEN := s.NLEN, PT := s.PT, KEY := s.KEY
    NONCE := s.NONCE, inputs := s.inputs, returned := s.returned }

section HostSide

variable {s t : State}

theorem fields_of_hostSide (h : t.hostSide = s.hostSide) :
    t.CMD = s.CMD ∧ SameOperands s t ∧ t.inputs = s.inputs ∧ t.returned = s.returned := by
  have field {α : Type} (f : State → α) : f t.hostSide = f s.hostSide := congrArg f h
  exact ⟨field State.CMD, ⟨field State.N, field State.PLEN, field State.KLEN, field State.NLEN, field State.PT,
    field State.KEY, field State.NONCE⟩, field State.inputs, field State.returned⟩

theorem State.checkOperands_hostSide (s : State) : s.checkOperands.hostSide = s.hostSide := by
  rcases s.checkOperands_cases with ⟨-, e⟩ | ⟨-, -, ⟨-, -, e⟩ | ⟨-, -, -, e⟩ | ⟨-, e⟩ | ⟨-, -, e⟩⟩ <;> rw [e] <;> rfl

theorem ksaNext_hostSide (s : State) (n : Nat) (i kb : Byte) : (ksaNext s n i kb).hostSide = s.hostSide := by
  dsimp only [ksaNext]
  split <;> rfl

theorem prgaNext_hostSide (s : State) (n : Nat) (p : Byte) : (prgaNext s n p).hostSide = s.hostSide := by
  dsimp only [prgaNext]
  split <;> rfl

theorem arxQrNext_hostSide (s : State) : (arxQrNext s).hostSide = s.hostSide := by
  dsimp only [arxQrNext]
  split <;> rfl

theorem arxXorNext_hostSide (s : State) (p z : Byte) : (arxXorNext s p z).hostSide = s.hostSide := by
  dsimp only [arxXorNext]
  split <;> rfl

theorem pacLoop_hostSide (s s1 : State) : (pacLoop s s1).hostSide = s1.hostSide :=
  pacLoop_field State.hostSide s s1 (fun _ _ => rfl) fun _ => rfl

/-- No micro-operation changes the request, the pending inputs or what the host has read (R134). -/
theorem exec_uop_hostSide {i : Instr} {c : BitVec 8} (hc : encode i = .uop c) (h : exec i s = .next t) :
    t.hostSide = s.hostSide := by
  cases i with
  | runSpc nv => cases hc
  | runArx => cases hc
  | runPac mode preserve => cases hc
  | uValidate =>
    obtain ⟨-, rfl⟩ | ⟨-, -, -, rfl⟩ := execUValidate_eq_next.mp h
    · rfl
    · exact s.checkOperands_hostSide
  | uSpcInit => obtain ⟨-, rfl⟩ := execUSpcInit_eq_next.mp h; rfl
  | uKsaStep =>
    obtain ⟨n, i, kb, -, -, -, -, -, -, rfl⟩ := execUKsaStep_eq_next.mp h
    exact ksaNext_hostSide s n i kb
  | uPrgaInit => obtain rfl := execUPrgaInit_eq_next.mp h; rfl
  | uPrgaStep =>
    obtain ⟨n, p, -, -, -, -, -, rfl⟩ := execUPrgaStep_eq_next.mp h
    exact prgaNext_hostSide s n p
  | uSpcVerify => obtain ⟨out, ks, pt, -, -, -, -, rfl⟩ := execUSpcVerify_eq_next.mp h; rfl
  | uArxInit => obtain ⟨key, nonce, -, -, rfl⟩ := execUArxInit_eq_next.mp h; rfl
  | uArxCopy => obtain rfl := execUArxCopy_eq_next.mp h; rfl
  | uArxQr => obtain rfl := execUArxQr_eq_next.mp h; exact arxQrNext_hostSide s
  | uArxFinal => obtain rfl := execUArxFinal_eq_next.mp h; rfl
  | uArxXor =>
    obtain ⟨p, z, -, -, -, rfl⟩ := execUArxXor_eq_next.mp h
    exact arxXorNext_hostSide s p z
  | uPacClean =>
    obtain ⟨key, -, ⟨-, -, rfl⟩ | ⟨-, pt, -, -, rfl⟩⟩ := execUPacClean_eq_next.mp h <;> rfl
  | uPacChar =>
    obtain ⟨c, -, ⟨-, -, -, kl, -, -, rfl⟩ | ⟨-, -, -, rfl⟩ | ⟨-, -, rfl⟩⟩ := execUPacChar_eq_next.mp h <;>
      exact pacLoop_hostSide s _

/-- The table of R99 lists each micro-operation under its own code. -/
theorem encode_of_mem_uopTable {c : BitVec 8} {i : Instr} (h : (c, i) ∈ uopTable) : encode i = .uop c := by
  have key : ∀ row ∈ uopTable, encode row.2 = .uop row.1 := by decide
  exact key (c, i) h

theorem sequencerMove_hostSide (h : sequencerMove s = .next t) : t.hostSide = s.hostSide := by
  obtain ⟨i, hi, e⟩ := sequencerMove_eq_next.mp h
  exact exec_uop_hostSide (encode_of_mem_uopTable (mem_uopTable_of_decodeUop hi)) e

end HostSide

/-- Settles O35. -/
theorem microOperationsLeaveTheRequest : Obligations.MicroOperationsLeaveTheRequest := fun _ _ _ _ hc h =>
  have ⟨hcmd, hoperands, _⟩ := fields_of_hostSide (exec_uop_hostSide hc h)
  ⟨hcmd, hoperands⟩

/-! ## The host during a run -/

/-- The write of `CMD` is H_START of a word, whether that word selects a command or not (R101, R122). -/
theorem exists_hostMove_start_eq (w : Word) (s : State) : ∃ v, hostMove (.start w) s = hStart v s := by
  simp only [hostMove]
  split
  · next i hi =>
    obtain ⟨v, hv⟩ := encode_of_decodeCmd hi
    exact ⟨v, exec_of_encode_cmd hv s⟩
  · exact ⟨w, rfl⟩

theorem ReadTarget.anyTime_eq_false {t : ReadTarget} (hs : t ≠ .reg .STATUS) (he : t ≠ .reg .ERR) :
    t.anyTime = false := by
  cases t with
  | reg r =>
    cases r with
    | STATUS => exact absurd rfl hs
    | ERR => exact absurd rfl he
    | _ => rfl
  | elem b k => rfl
  | record k => rfl

/-- During a run the host has no move but a read of `STATUS` or `ERR` (R124, U4). -/
theorem hostMove_of_busy {s : State} (hb : s.STATUS = .busy) {m : HostMove} (hs : m ≠ .read (.reg .STATUS))
    (he : m ≠ .read (.reg .ERR)) : hostMove m s = .refused .hostMoveWhileBusy := by
  cases m with
  | writeReg r v => exact if_pos hb
  | writeElem b k v => exact if_pos hb
  | start w =>
    obtain ⟨v, hv⟩ := exists_hostMove_start_eq w s
    rw [hv]
    exact if_pos hb
  | read t =>
    have hany := ReadTarget.anyTime_eq_false (fun e => hs (congrArg _ e)) fun e => he (congrArg _ e)
    exact if_pos ⟨hb, hany⟩

theorem step_of_busy_hostNow {s : State} {m : HostMove} {rest : List Input} (hb : s.STATUS = .busy)
    (h : s.inputs = .hostNow m :: rest) : step s = hostMove m { s with inputs := rest } := by
  simp [step, hb, busyStep, h, Input.preempts, actOn]

/-- A register read returns the value of the register (R102, R123). -/
theorem State.readReg_toNat (s : State) (r : ReadReg) : (s.readReg r).toNat = registerValue s r := by
  cases r with
  | STATUS => simp only [State.readReg, registerValue]; cases s.STATUS <;> rfl
  | ERR => simp only [State.readReg, registerValue]; cases s.ERR <;> rfl
  | VERIFY_OK => simp only [State.readReg, registerValue]; cases s.VERIFY_OK <;> rfl
  | _ => rfl

/-- A read that is enabled appends its value to what the host has read and changes nothing else (R123). -/
theorem hRead_of_value {s : State} {t : ReadTarget} {v : HostValue} (hen : s.STATUS ≠ .busy ∨ t.anyTime = true)
    (hv : s.hostValue t = .next v) : hRead t s = .next { s with returned := s.returned ++ [v] } := by
  have hn : ¬ (s.STATUS = .busy ∧ t.anyTime = false) := fun ⟨hb, ht⟩ => by
    rcases hen with h | h
    · exact h hb
    · rw [ht] at h; cases h
  rw [hRead, if_neg hn, hv, Res.andThen_next]

/-- Settles O34: a waiting host is not acted for, and the sequencer leaves its side alone; any other host is held to
`hostMove_of_busy`. -/
theorem hostHasNoMoveDuringARun : Obligations.HostHasNoMoveDuringARun := by
  intro s m rest hb
  refine ⟨fun hin t e => ?_, fun hin => ?_⟩
  · rw [step_of_busy hb (by simp [State.undisturbed, hin])] at e
    obtain ⟨hcmd, hoperands, hinputs, hreturned⟩ := fields_of_hostSide (sequencerMove_hostSide e)
    exact ⟨hinputs.trans hin, hreturned, hoperands, hcmd⟩
  · rw [step_of_busy_hostNow hb hin]
    refine ⟨?_, ?_, fun hs he => hostMove_of_busy (s := { s with inputs := rest }) hb hs he⟩
    · rintro rfl
      have busyCode : s.readReg .STATUS = 1 := by rw [State.readReg, hb]; rfl
      rw [← busyCode]
      exact hRead_of_value (.inr rfl) rfl
    · rintro rfl
      exact ⟨s.readReg .ERR, s.readReg_toNat .ERR, hRead_of_value (.inr rfl) rfl⟩

end Sys2Proof.Machine
end

section
/-! PROOFS. What the host reads with no run in progress (O33). -/

namespace Sys2Proof.Machine

/-! ## Which elements the host may read -/

/-- What is readable and what is not, in the terms of R51 and R123. -/
theorem State.readable_iff {s : State} {b : ByteBuf} {k : Nat} : s.readable b k = true ↔ ¬ NotReadable s k b := by
  have last {n : Nat} {c d : Prop} : c ∧ d ∧ k < n ↔ ¬ (n ≤ k ∨ ¬ (c ∧ d)) := by
    rw [not_or, not_not, Nat.not_le, and_comm (a := k < n), and_assoc]
  cases b with
  | PT | KEY | NONCE | KS | OUT => exact decide_eq_true_iff.trans Nat.not_le.symm
  | BLOCK | REC => exact decide_eq_true_iff.trans last
  | CKEY => exact ⟨nofun, fun h => absurd trivial h⟩

theorem hostValue_of_notReadable {s : State} {b : ByteBuf} {k : Nat} (h : NotReadable s k b) :
    s.hostValue (.elem b k) = .refused .noSuchHostMove :=
  if_neg fun hr => State.readable_iff.mp hr h

theorem hostValue_of_readable {s : State} {b : ByteBuf} {k : Nat} (h : ¬ NotReadable s k b) :
    s.hostValue (.elem b k) = (s.readByte b k).andThen fun v => .next (.byte v) :=
  if_pos (State.readable_iff.mpr h)

/-! ## Reads that return a value, and reads that are refused -/

/-- At rest a read stops where the value it asks for does. -/
theorem hRead_of_refused {s : State} {t : ReadTarget} {r : Refusal} (hn : s.STATUS ≠ .busy)
    (h : s.hostValue t = .refused r) : hRead t s = .refused r := by
  rw [hRead, if_neg fun hb => hn hb.1, h, Res.andThen_refused]

theorem readByte_of_unwritten_request {s : State} {b : ByteBuf} {k : Nat} (hb : b ∈ [ByteBuf.PT, .KEY, .NONCE])
    (h : (s.buf b).read k = none) : s.readByte b k = .refused (.requestUnwritten b) := by
  rw [State.readByte, h]
  simp only [List.mem_cons, List.not_mem_nil, or_false] at hb
  rcases hb with rfl | rfl | rfl <;> rfl

/-- The list of valid elements of R123 leaves out the elements that are not readable. -/
theorem not_notReadable_of_valid {s : State} {b : ByteBuf} {k : Nat}
    (h : (b = .OUT ∧ k < s.OLEN.toNat) ∨ (b = .KS ∧ k < s.KSLEN.toNat) ∨
      (b = .REC ∧ k < s.KSLEN.toNat ∧ s.STATUS = .done ∧ cmdOp s.CMD = 1) ∨
      (b = .BLOCK ∧ k < 64 ∧ s.STATUS = .done ∧ cmdOp s.CMD = 2) ∨
      (b = .PT ∧ k < Config.PT_MAX) ∨ (b = .KEY ∧ k < Config.KEY_MAX) ∨ (b = .NONCE ∧ k < 12)) :
    ¬ NotReadable s k b := by
  rcases h with ⟨rfl, h⟩ | ⟨rfl, h⟩ | ⟨rfl, h, hd⟩ | ⟨rfl, h, hd⟩ | ⟨rfl, h⟩ | ⟨rfl, h⟩ | ⟨rfl, h⟩
  · exact Nat.not_le.mpr h
  · exact Nat.not_le.mpr h
  · exact not_or.mpr ⟨Nat.not_le.mpr h, not_not.mpr hd⟩
  · exact not_or.mpr ⟨Nat.not_le.mpr h, not_not.mpr hd⟩
  · exact Nat.not_le.mpr h
  · exact Nat.not_le.mpr h
  · exact Nat.not_le.mpr h

/-- Settles O33: each read is its value's, found or refused. -/
theorem hostReadsValidElementsOnly : Obligations.HostReadsValidElementsOnly := by
  intro s hn
  refine ⟨fun r => ⟨s.readReg r, s.readReg_toNat r, hRead_of_value (.inl hn) rfl⟩, fun b k v hv hvalid => ?_,
    fun k r hk hr => ?_, fun b k h => hRead_of_refused hn (hostValue_of_notReadable h), fun b k hb h hnone => ?_,
    fun k hk => hRead_of_refused hn (if_neg (Nat.not_lt.mpr hk))⟩
  · refine hRead_of_value (.inl hn) ?_
    rw [hostValue_of_readable (not_notReadable_of_valid hvalid), State.readByte_of_read hv, Res.andThen_next]
  · refine hRead_of_value (.inl hn) ?_
    rw [State.hostValue, if_pos hk, hr]
  · refine hRead_of_refused hn ?_
    rw [hostValue_of_readable h, readByte_of_unwritten_request hb hnone, Res.andThen_refused]

end Sys2Proof.Machine
end

section
/-! PROOFS. How the invariant is established: at rest (O2), and at each phase of a run from what the phase needs. The
reset event (O1). -/

namespace Sys2Proof.Machine

variable {s : State}

/-! ## Phases -/

/-- The codes that select a micro-operation (R99). -/
def uopCodes : List (BitVec 8) := uopTable.map Prod.fst

theorem exists_decodeUop {p : BitVec 8} (h : p ∈ uopCodes) : ∃ i, decodeUop p = .ok i := by
  have key : ∀ c ∈ uopCodes, (decodeUop c).toOption.isSome = true := by decide
  have hp := key p h
  cases hd : decodeUop p with
  | ok i => exact ⟨i, rfl⟩
  | error _ => rw [hd] at hp; cases hp

/-- With no run in progress `PHASE` is no code of a micro-operation. -/
theorem StatusOk.phase_notMem (h : StatusOk s) (hn : s.STATUS ≠ .busy) {l : List (BitVec 8)} (hl : l ⊆ uopCodes) :
    s.PHASE ∉ l := fun hp => hn (h.busy.mpr (exists_decodeUop (hl hp)))

/-- The three states of rest (R31, R258). -/
theorem statusOk_of_rest (hrest : (s.STATUS, s.PHASE) ∈ [(.idle, P_IDLE), (.done, P_DONE), (.error, P_ERROR)])
    (kind : s.STATUS = .error ↔ s.ERR ≠ .noError) : StatusOk s := by
  simp only [List.mem_cons, Prod.mk.injEq, List.not_mem_nil, or_false] at hrest
  rcases hrest with ⟨hs, hp⟩ | ⟨hs, hp⟩ | ⟨hs, hp⟩ <;>
    exact ⟨by simp [hs, hp], by simp [hs, hp, decodeUop, uopTable], by simp [hs, hp], by simp [hs, hp], kind⟩

/-- A run in progress (R31, R122). -/
theorem statusOk_of_busy (hb : s.STATUS = .busy) (hp : s.PHASE ∈ uopCodes) (he : s.ERR = .noError) : StatusOk s := by
  have restCode {c : BitVec 8} (hc : c ∉ uopCodes) : s.PHASE ≠ c := fun h => hc (h ▸ hp)
  refine ⟨?_, iff_of_true hb (exists_decodeUop hp), ?_, ?_, ?_⟩ <;> rw [hb]
  · exact iff_of_false nofun (restCode (by decide))
  · exact iff_of_false nofun (restCode (by decide))
  · exact iff_of_false nofun (restCode (by decide))
  · exact iff_of_false nofun (not_not.mpr he)

theorem SpcOk.of_notMem (h : s.PHASE ∉ [P_SPC_INIT, P_KSA, P_PRGA_INIT, P_PRGA, P_SPC_VERIFY]) : SpcOk s where
  request hp := absurd hp h
  permutation hp := absurd (List.mem_cons_of_mem _ hp) h
  ksa hp := absurd (by simp [hp]) h
  prga hp := absurd (by simp [hp]) h
  verify hp := absurd (by simp [hp]) h

theorem ArxOk.of_notMem (h : s.PHASE ∉ [P_ARX_INIT, P_ARX_COPY, P_ARX_QR, P_ARX_FINAL, P_ARX_XOR]) : ArxOk s where
  request hp := absurd hp h
  quarterRounds hp := absurd (by simp [hp]) h
  xor hp := absurd (by simp [hp]) h

theorem PacOk.of_notMem (h : s.PHASE ∉ [P_PAC_CLEAN, P_PAC_CHAR]) : PacOk s where
  request hp := absurd hp h
  char hp := absurd (by simp [hp]) h

/-! ## Rest -/

/-- With no run in progress the invariant is what it says of buffers, status and results. -/
theorem Inv.of_rest (memory : MemoryOk s) (status : StatusOk s) (results : ResultsOk s) (hn : s.STATUS ≠ .busy) :
    Inv s where
  memory := memory
  status := status
  results := results
  fresh := ⟨fun hp => absurd hp (status.phase_notMem hn (by decide)),
    fun hp => absurd hp (status.phase_notMem hn (by decide))⟩
  spc := .of_notMem (status.phase_notMem hn (by decide))
  arx := .of_notMem (status.phase_notMem hn (by decide))
  pac := .of_notMem (status.phase_notMem hn (by decide))

theorem State.buf_reset (b : ByteBuf) : State.reset.buf b = [] := by cases b <;> rfl

theorem memoryOk_reset : MemoryOk State.reset where
  canonical b := by rw [State.buf_reset]; exact List.Pairwise.nil
  within b := by rw [State.buf_reset]; exact nofun
  traceCanonical := List.Pairwise.nil
  traceWithin := nofun

theorem resultsOk_reset : ResultsOk State.reset where
  out := Memory.filledBelow_zero _
  ks := Memory.filledBelow_zero _
  trace := Memory.filledBelow_zero _
  recovered := nofun
  block := nofun
  verified := by simp [State.reset]

/-- Settles O2: the buffers are empty and no length register covers an element. -/
theorem invariantHoldsAtReset : Obligations.InvariantHoldsAtReset :=
  .of_rest memoryOk_reset (statusOk_of_rest (by simp [State.reset]) (by simp [State.reset])) resultsOk_reset nofun

/-- Reset preempts a run, and at rest it is an input like the others (R280). -/
theorem step_of_reset {rest : List Input} (h : s.inputs = .reset :: rest) :
    step s = .next { s with inputs := rest }.resetEvent := by
  by_cases hb : s.STATUS = .busy
  · simp [step, hb, busyStep, h, Input.preempts, actOn]
  · rw [step_of_rest hb h, actOn]

/-- Settles O1. -/
theorem resetEventPutsRegistersAtResetValues : Obligations.ResetEventPutsRegistersAtResetValues := by
  intro s rest h
  have noBuffer (b : ByteBuf) (k : Nat) : ({ s with inputs := rest }.resetEvent.buf b).read k = none := by
    cases b <;> rfl
  exact ⟨_, step_of_reset h, rfl, rfl, rfl, rfl, rfl, rfl, rfl, rfl, rfl, rfl, rfl, rfl, noBuffer, fun _ => rfl, rfl,
    rfl⟩

/-! ## A run in progress -/

/-- What the invariant says of every phase of a run: no error yet, `VERIFY_OK` still clear, and what the length
registers cover written. -/
structure Underway (s : State) : Prop where
  memory : MemoryOk s
  busy : s.STATUS = .busy
  noError : s.ERR = .noError
  unverified : s.VERIFY_OK = false
  out : s.OUT.filledBelow s.OLEN.toNat
  ks : s.KS.filledBelow s.KSLEN.toNat
  trace : s.TRACE.filledBelow s.TLEN.toNat

/-- The state with everything cleared but what `Underway` speaks of. -/
def State.underwayPart (s : State) : State :=
  { State.reset with
    PT := s.PT, KEY := s.KEY, NONCE := s.NONCE, BLOCK := s.BLOCK, CKEY := s.CKEY, KS := s.KS, OUT := s.OUT, REC := s.REC
    TRACE := s.TRACE, STATUS := s.STATUS, ERR := s.ERR, VERIFY_OK := s.VERIFY_OK, OLEN := s.OLEN, KSLEN := s.KSLEN
    TLEN := s.TLEN }

/-- A write of a register of the sequencer or of working state that is no buffer leaves `Underway`. -/
theorem Underway.of_part {t : State} (u : Underway s) (h : t.underwayPart = s.underwayPart) : Underway t := by
  have part : Underway s.underwayPart := { u with memory := { u.memory with } }
  rw [← h] at part
  exact { part with memory := { part.memory with } }

theorem Inv.underway (h : Inv s) (hb : s.STATUS = .busy) : Underway s where
  memory := h.memory
  busy := hb
  noError := by
    by_contra he
    rw [← ne_eq, ← h.status.kind, hb] at he
    cases he
  unverified := by
    rw [← Bool.not_eq_true, h.results.verified, hb]
    nofun
  out := h.results.out
  ks := h.results.ks
  trace := h.results.trace

theorem Inv.underway_of_phase (h : Inv s) {p : BitVec 8} (hp : s.PHASE = p) (hc : p ∈ uopCodes) : Underway s :=
  h.underway (h.status.busy.mpr (exists_decodeUop (hp ▸ hc)))

namespace Underway

theorem inv (u : Underway s) (hp : s.PHASE ∈ uopCodes) (fresh : FreshOk s) (spc : SpcOk s) (arx : ArxOk s)
    (pac : PacOk s) : Inv s where
  memory := u.memory
  status := statusOk_of_busy u.busy hp u.noError
  results :=
    { out := u.out
      ks := u.ks
      trace := u.trace
      recovered := by rw [u.busy]; nofun
      block := by rw [u.busy]; nofun
      verified := by rw [u.busy, u.unverified]; exact iff_of_false nofun nofun }
  fresh := fresh
  spc := spc
  arx := arx
  pac := pac

/-- The end of a run by an error (R256). -/
theorem raise (u : Underway s) {k : ErrKind} (hk : k ≠ .noError) : Inv (s.raise k) :=
  .of_rest { u.memory with } (statusOk_of_rest (by simp) (iff_of_true rfl hk))
    { out := u.out
      ks := u.ks
      trace := u.trace
      recovered := nofun
      block := nofun
      verified := by rw [State.raise_VERIFY_OK, u.unverified]; exact iff_of_false nofun nofun }
    nofun

end Underway

/-- The end of a run without an error (R131). -/
theorem inv_finish (memory : MemoryOk s) (he : s.ERR = .noError) (results : ResultsOk s.finish) : Inv s.finish :=
  .of_rest { memory with } (statusOk_of_rest (by simp) (iff_of_false nofun (not_not.mpr he))) results nofun

/-- A request for RUN_SPC with a validated stateSize (R126). -/
def SpcRequest (s : State) : Prop := RequestOk s 1 ∧ 1 ≤ s.N.toNat ∧ s.N.toNat ≤ 256

namespace Underway

/-- The end of a run of RUN_ARX or RUN_PAC. -/
theorem finish (u : Underway s) (hspc : cmdOp s.CMD ≠ 1) (block : cmdOp s.CMD = 2 → s.BLOCK.filledBelow 64) :
    Inv s.finish :=
  inv_finish u.memory u.noError
    { out := u.out
      ks := u.ks
      trace := u.trace
      recovered := fun _ op => absurd op hspc
      block := fun _ => block
      verified := by rw [State.finish_VERIFY_OK, u.unverified]; exact iff_of_false nofun fun h => hspc h.2 }

/-! ### The invariant at each phase

A clause about another phase is empty, which `simp [hp]` sees. -/

theorem at_validate (u : Underway s) (hp : s.PHASE = P_VALIDATE) (len : s.OLEN = 0 ∧ s.KSLEN = 0) (tlen : s.TLEN = 0) :
    Inv s :=
  u.inv (by rw [hp]; decide) ⟨fun _ => len, fun _ => tlen⟩ (.of_notMem (by simp [hp])) (.of_notMem (by simp [hp]))
    (.of_notMem (by simp [hp]))

theorem at_spcInit (u : Underway s) (hp : s.PHASE = P_SPC_INIT) (req : SpcRequest s) (len : s.OLEN = 0 ∧ s.KSLEN = 0)
    (tlen : s.TLEN = 0) : Inv s :=
  u.inv (by rw [hp]; decide) ⟨fun _ => len, fun _ => tlen⟩
    { request := fun _ => req, permutation := by simp [hp], ksa := by simp [hp], prga := by simp [hp]
      verify := by simp [hp] }
    (.of_notMem (by simp [hp])) (.of_notMem (by simp [hp]))

theorem at_ksa (u : Underway s) (hp : s.PHASE = P_KSA) (req : SpcRequest s) (len : s.OLEN = 0 ∧ s.KSLEN = 0)
    (perm : isPermutation s.S s.N.toNat) (hi : s.IDX.toNat < s.N.toNat) (hj : s.J.toNat < s.N.toNat) : Inv s :=
  u.inv (by rw [hp]; decide) ⟨fun _ => len, by simp [hp]⟩
    { request := fun _ => req, permutation := fun _ => perm, ksa := fun _ => ⟨hi, hj⟩, prga := by simp [hp]
      verify := by simp [hp] }
    (.of_notMem (by simp [hp])) (.of_notMem (by simp [hp]))

theorem at_prgaInit (u : Underway s) (hp : s.PHASE = P_PRGA_INIT) (req : SpcRequest s)
    (len : s.OLEN = 0 ∧ s.KSLEN = 0) (perm : isPermutation s.S s.N.toNat) : Inv s :=
  u.inv (by rw [hp]; decide) ⟨fun _ => len, by simp [hp]⟩
    { request := fun _ => req, permutation := fun _ => perm, ksa := by simp [hp], prga := by simp [hp]
      verify := by simp [hp] }
    (.of_notMem (by simp [hp])) (.of_notMem (by simp [hp]))

theorem at_prga (u : Underway s) (hp : s.PHASE = P_PRGA) (req : SpcRequest s) (perm : isPermutation s.S s.N.toNat)
    (prga : s.IDX.toNat < s.PLEN.toNat ∧ s.I.toNat < s.N.toNat ∧ s.J.toNat < s.N.toNat ∧ s.OLEN = s.IDX ∧
      s.KSLEN = s.IDX ∧ s.encrypted s.IDX.toNat) : Inv s :=
  u.inv (by rw [hp]; decide) ⟨by simp [hp], by simp [hp]⟩
    { request := fun _ => req, permutation := fun _ => perm, ksa := by simp [hp], prga := fun _ => prga
      verify := by simp [hp] }
    (.of_notMem (by simp [hp])) (.of_notMem (by simp [hp]))

theorem at_spcVerify (u : Underway s) (hp : s.PHASE = P_SPC_VERIFY) (req : SpcRequest s)
    (perm : isPermutation s.S s.N.toNat)
    (verify : s.OLEN = s.PLEN ∧ s.KSLEN = s.PLEN ∧ s.encrypted s.PLEN.toNat) : Inv s :=
  u.inv (by rw [hp]; decide) ⟨by simp [hp], by simp [hp]⟩
    { request := fun _ => req, permutation := fun _ => perm, ksa := by simp [hp], prga := by simp [hp]
      verify := fun _ => verify }
    (.of_notMem (by simp [hp])) (.of_notMem (by simp [hp]))

theorem at_arxInit (u : Underway s) (hp : s.PHASE = P_ARX_INIT) (req : RequestOk s 2) (len : s.OLEN = 0 ∧ s.KSLEN = 0)
    (tlen : s.TLEN = 0) : Inv s :=
  u.inv (by rw [hp]; decide) ⟨fun _ => len, fun _ => tlen⟩ (.of_notMem (by simp [hp]))
    { request := fun _ => req, quarterRounds := by simp [hp], xor := by simp [hp] } (.of_notMem (by simp [hp]))

/-- The phases between the initial matrix and the first output byte. -/
theorem at_arxBlock (u : Underway s) (hp : s.PHASE ∈ [P_ARX_COPY, P_ARX_QR, P_ARX_FINAL]) (req : RequestOk s 2)
    (len : s.OLEN = 0 ∧ s.KSLEN = 0) (qn : s.PHASE = P_ARX_QR → s.QN.toNat < 80) : Inv s := by
  simp only [List.mem_cons, List.not_mem_nil, or_false] at hp
  rcases hp with hp | hp | hp <;>
    exact u.inv (by rw [hp]; decide) ⟨fun _ => len, by simp [hp]⟩ (.of_notMem (by simp [hp]))
      { request := fun _ => req, quarterRounds := qn, xor := by simp [hp] } (.of_notMem (by simp [hp]))

theorem at_arxXor (u : Underway s) (hp : s.PHASE = P_ARX_XOR) (req : RequestOk s 2)
    (xor : s.IDX.toNat < s.PLEN.toNat ∧ s.OLEN = s.IDX ∧ s.KSLEN = s.IDX ∧ s.BLOCK.filledBelow 64 ∧
      s.encrypted s.IDX.toNat ∧ ∀ k, k < s.IDX.toNat → s.KS.read k = s.BLOCK.read (k % 64)) : Inv s :=
  u.inv (by rw [hp]; decide) ⟨by simp [hp], by simp [hp]⟩ (.of_notMem (by simp [hp]))
    { request := fun _ => req, quarterRounds := by simp [hp], xor := fun _ => xor } (.of_notMem (by simp [hp]))

theorem at_pacClean (u : Underway s) (hp : s.PHASE = P_PAC_CLEAN) (req : RequestOk s 3)
    (len : s.OLEN = 0 ∧ s.KSLEN = 0) (tlen : s.TLEN = 0) : Inv s :=
  u.inv (by rw [hp]; decide) ⟨fun _ => len, fun _ => tlen⟩ (.of_notMem (by simp [hp])) (.of_notMem (by simp [hp]))
    { request := fun _ => req, char := by simp [hp] }

theorem at_pacChar (u : Underway s) (hp : s.PHASE = P_PAC_CHAR) (req : RequestOk s 3)
    (char : s.IDX.toNat < s.PLEN.toNat ∧ s.OLEN.toNat ≤ s.IDX.toNat ∧ s.CUR.toNat ≤ s.IDX.toNat ∧ s.KSLEN = 0 ∧
      1 ≤ s.CLEN.toNat ∧ s.CLEN.toNat ≤ s.KLEN.toNat ∧
      ∀ k, k < s.CLEN.toNat → ∃ v, s.CKEY.read k = some v ∧ isUpper v = true) : Inv s :=
  u.inv (by rw [hp]; decide) ⟨by simp [hp], by simp [hp]⟩ (.of_notMem (by simp [hp])) (.of_notMem (by simp [hp]))
    { request := fun _ => req, char := fun _ => char }

end Underway

end Sys2Proof.Machine
end

section
/-! PROOFS. Every step keeps the invariant (O3): the writes that the micro-operations share, each micro-operation, the
moves of the host. On the way: `S[0..N−1]` stays a permutation (O21), and the in-run check succeeds (O20). -/

namespace Sys2Proof.Machine

/-! ## Writes to the buffers and the trace -/

section Writes

variable {s : State}

theorem Counter.succ_toNat_le (c : Counter) (q : RunRequest) (d : Nat) (v : Word) :
    (Counter.succ c q d v).toNat ≤ v.toNat + 1 := by
  unfold Counter.succ
  split
  · next hv =>
    have := (Config.counterOverflow c q d).isLt
    rw [hv, BitVec.toNat_allOnes]
    omega
  · exact Word.succ_toNat_le v

theorem Memory.filledBelow_writeAll (m : Memory Byte) (vs : List Byte) : (m.writeAll 0 vs).filledBelow vs.length :=
  Memory.filledBelow_of_holds (storedAll_writeAll m vs).values

theorem MemoryOk.setBuf (m : MemoryOk s) (b : ByteBuf) {x : Memory Byte} (wf : x.wf) (within : x.within b.extent) :
    MemoryOk (s.setBuf b x) where
  canonical c := by
    rw [State.buf_setBuf]
    split
    · exact wf
    · exact m.canonical c
  within c := by
    rw [State.buf_setBuf]
    split
    · next h => exact h ▸ within
    · exact m.within c
  traceCanonical := by rw [State.setBuf_any_TRACE]; exact m.traceCanonical
  traceWithin := by rw [State.setBuf_any_TRACE]; exact m.traceWithin

theorem MemoryOk.write (m : MemoryOk s) (b : ByteBuf) {k : Nat} (v : Byte) (hk : k < b.extent) :
    MemoryOk (s.setBuf b ((s.buf b).write k v)) :=
  m.setBuf b (Memory.write_wf k v (m.canonical b)) (Memory.write_within (m.within b) hk)

theorem MemoryOk.writeAll (m : MemoryOk s) (b : ByteBuf) {vs : List Byte} (hvs : vs.length ≤ b.extent) :
    MemoryOk (s.setBuf b ((s.buf b).writeAll 0 vs)) :=
  m.setBuf b (Memory.writeAll_wf vs _ 0 (m.canonical b))
    (Memory.writeAll_within vs _ 0 (m.within b) (.inr (by rwa [Nat.zero_add])))

theorem MemoryOk.emit (m : MemoryOk s) (r : TraceRecord) : MemoryOk (s.emit r) :=
  { m with
    traceCanonical := Memory.write_wf _ r m.traceCanonical
    traceWithin := Memory.write_within m.traceWithin s.TLEN.isLt }

theorem filledBelow_emit (h : s.TRACE.filledBelow s.TLEN.toNat) (r : TraceRecord) :
    (s.emit r).TRACE.filledBelow (s.emit r).TLEN.toNat :=
  Memory.filledBelow_mono (Memory.filledBelow_write_succ h) (Counter.succ_toNat_le _ _ _ _)

theorem Underway.emit (u : Underway s) (r : TraceRecord) : Underway (s.emit r) :=
  { u with memory := u.memory.emit r, trace := filledBelow_emit u.trace r }

/-- The writes of a keystream engine for byte `IDX`: keystream byte z, output byte p xor z, the lengths (R154, R190). -/
def State.stored (s : State) (p z : Byte) : State :=
  { s with
    KS := s.KS.write s.IDX.toNat z, OUT := s.OUT.write s.IDX.toNat (p ^^^ z), KSLEN := s.IDX + 1, OLEN := s.IDX + 1 }

theorem Underway.stored (u : Underway s) (ho : s.OLEN = s.IDX) (hk : s.KSLEN = s.IDX)
    (fits : s.IDX.toNat < Config.PT_MAX) (p z : Byte) : Underway (s.stored p z) :=
  { u with
    memory := { (u.memory.write .KS z fits).write .OUT (p ^^^ z) fits with }
    out := Memory.filledBelow_mono (Memory.filledBelow_write_succ (ho ▸ u.out)) (Word.succ_toNat_le _)
    ks := Memory.filledBelow_mono (Memory.filledBelow_write_succ (hk ▸ u.ks)) (Word.succ_toNat_le _) }

theorem State.encrypted_zero (s : State) : s.encrypted 0 := fun _ hk => absurd hk (Nat.not_lt_zero _)

theorem State.encrypted_stored (h : s.encrypted s.IDX.toNat) {p : Byte} (hp : s.PT.read s.IDX.toNat = some p)
    (z : Byte) : (s.stored p z).encrypted (s.IDX + 1).toNat := by
  intro k hk
  have hle := Word.succ_toNat_le s.IDX
  rcases Nat.lt_or_eq_of_le (Nat.le_of_lt_succ (hk.trans_le hle)) with hlt | rfl
  · obtain ⟨p', z', hpt, hks, hout⟩ := h k hlt
    exact ⟨p', z', hpt, (Memory.read_write_other _ _ hlt.ne).trans hks, (Memory.read_write_other _ _ hlt.ne).trans hout⟩
  · exact ⟨p, z, hp, Memory.read_write_same _ _ _, Memory.read_write_same _ _ _⟩

end Writes

/-! ## The permutation (R38) -/

section Permutation

variable {s t : State}

theorem isPermutation_identityBelow (S : Vector Byte 256) {n : Nat} (h : n ≤ 256) :
    isPermutation (identityBelow S n) n := by
  rw [isPermutation, sPrefix_identityBelow S h]

/-- `U_KSA_STEP` before it closes its loop. -/
def ksaBody (s : State) (n : Nat) (i kb : Byte) : State :=
  { s with J := ksaIndex s n i kb, S := swap s.S i (ksaIndex s n i kb) }.emit
    (.ksaStep s.IDX.toNat kb (sPrefix s.S n) (ksaIndex s n i kb).toNat (sPrefix (swap s.S i (ksaIndex s n i kb)) n))

theorem ksaNext_eq (s : State) (n : Nat) (i kb : Byte) : ksaNext s n i kb =
    if s.IDX.toNat + 1 < n then { ksaBody s n i kb with IDX := s.IDX + 1 }
    else { ksaBody s n i kb with PHASE := P_PRGA_INIT } := rfl

/-- `U_PRGA_STEP` before it closes its loop. -/
def prgaBody (s : State) (n : Nat) (p : Byte) : State :=
  { s.stored p (prgaZ s n) with I := prgaI s n, J := prgaJ s n, S := prgaS s n }.emit (prgaEmitted s n p)

theorem prgaNext_eq (s : State) (n : Nat) (p : Byte) : prgaNext s n p =
    if s.IDX.toNat + 1 < s.PLEN.toNat then { prgaBody s n p with IDX := s.IDX + 1 }
    else { prgaBody s n p with PHASE := P_SPC_VERIFY } := rfl

theorem isPermutation_ksaSwap {n : Nat} {i : Byte} (h0 : 0 < n) (h256 : n ≤ 256) (hi : i.toNat < n) (kb : Byte)
    (h : isPermutation s.S n) : isPermutation (swap s.S i (ksaIndex s n i kb)) n :=
  isPermutation_swap h256 hi (modIndex_lt h0 h256) h

theorem isPermutation_prgaS {n : Nat} (h0 : 0 < n) (h256 : n ≤ 256) (h : isPermutation s.S n) :
    isPermutation (prgaS s n) n :=
  isPermutation_swap h256 (modIndex_lt h0 h256) (modIndex_lt h0 h256) h

/-- Settles O21: the identity is a permutation, and both loops only swap elements below N. -/
theorem spcStepsKeepThePermutation : Obligations.SpcStepsKeepThePermutation := by
  rintro s t n rfl h1 h256
  refine ⟨fun e => ?_, fun h hlt e => ?_, fun h e => ?_⟩
  · obtain ⟨-, rfl⟩ := execUSpcInit_eq_next.mp e
    exact isPermutation_identityBelow s.S h256
  · obtain ⟨_, i, kb, rfl, h0, -, hi, -, -, rfl⟩ := execUKsaStep_eq_next.mp e
    rw [ksaNext_eq]
    split <;> exact isPermutation_ksaSwap h0 h256 (hi ▸ hlt) kb h
  · obtain ⟨_, p, rfl, h0, -, -, -, rfl⟩ := execUPrgaStep_eq_next.mp e
    rw [prgaNext_eq]
    split <;> exact isPermutation_prgaS h0 h256 h

end Permutation

/-! ## The in-run check (R160) -/

section InRunCheck

variable {s t : State}

/-- Output xor keystream is the text where the output is text xor keystream. -/
theorem State.zipWith_xor_eq_text {out ks pt : List Byte} (h : s.encrypted pt.length) (lout : out.length = pt.length)
    (lks : ks.length = pt.length) (hout : s.OUT.holds out) (hks : s.KS.holds ks) (hpt : s.PT.holds pt) :
    List.zipWith (· ^^^ ·) out ks = pt := by
  refine List.ext_getElem (by simp [lout, lks]) fun k _ hk => ?_
  obtain ⟨p, z, hp, hz, ho⟩ := h k hk
  rw [hpt k hk, List.getElem?_eq_getElem hk, Option.some.injEq] at hp
  rw [hks k (by omega), List.getElem?_eq_getElem (by omega), Option.some.injEq] at hz
  rw [hout k (by omega), List.getElem?_eq_getElem (by omega), Option.some.injEq] at ho
  rw [List.getElem_zipWith, ho, hz, hp, BitVec.xor_assoc, BitVec.xor_self, BitVec.xor_zero]

/-- In a state of the invariant `U_SPC_VERIFY` recovers the text. -/
theorem Inv.exists_verifyNext (h : Inv s) (hp : s.PHASE = P_SPC_VERIFY) (e : execUSpcVerify s = .next t) :
    ∃ out ks pt, (pt.length = s.PLEN.toNat ∧ s.PT.holds pt) ∧ List.zipWith (· ^^^ ·) out ks = pt ∧
      t = verifyNext s out ks pt := by
  obtain ⟨-, -, henc⟩ := h.spc.verify hp
  obtain ⟨out, ks, pt, ⟨lout, hout⟩, ⟨lks, hks⟩, ⟨lpt, hpt⟩, -, rfl⟩ := execUSpcVerify_eq_next.mp e
  rw [← lpt] at henc lout lks
  exact ⟨out, ks, pt, ⟨lpt, hpt⟩, State.zipWith_xor_eq_text henc lout lks hout hks hpt, rfl⟩

theorem verifyNext_of_recovered {out ks pt : List Byte} (h : List.zipWith (· ^^^ ·) out ks = pt) :
    verifyNext s out ks pt =
      ({ s with REC := s.REC.writeAll 0 pt, VERIFY_OK := true }.emit (.spcVerify pt true)).finish := by
  have hok : verifyOk pt pt = true := decide_eq_true rfl
  rw [verifyNext, h, hok]

/-- Settles O20. -/
theorem inRunCheckAlwaysSucceeds : Obligations.InRunCheckAlwaysSucceeds := by
  intro s t h hp e
  obtain ⟨out, ks, pt, ⟨lpt, hpt⟩, hrec, rfl⟩ := h.exists_verifyNext hp e
  rw [verifyNext_of_recovered hrec]
  refine ⟨rfl, fun k hk => ?_⟩
  rw [← lpt] at hk
  exact ((storedAll_writeAll s.REC pt).values k hk).trans (hpt k hk).symm

end InRunCheck

/-! ## Each micro-operation keeps the invariant -/

section MicroOperations

variable {s t : State}

theorem RequestOk.plen_pos {op : BitVec 4} (h : RequestOk s op) : 0 < s.PLEN.toNat :=
  Nat.pos_of_ne_zero fun e => h.text (BitVec.eq_of_toNat_eq e)

/-! ### The front end -/

theorem cmdOp_of_masked {w m v : Word} (hm : cmdOp m = BitVec.allOnes 4) (h : w &&& m = v) : cmdOp w = cmdOp v := by
  rw [← h, cmdOp, cmdOp, BitVec.extractLsb'_and, ← cmdOp, ← cmdOp, hm, BitVec.and_allOnes]

/-- The command codes (R96 to R98). -/
theorem cmdOp_of_legal {w : Word} (h : legalCommand w = true) : cmdOp w = 1 ∨ cmdOp w = 2 ∨ cmdOp w = 3 := by
  unfold legalCommand decodeCmd at h
  split_ifs at h with h1 h2 h3
  · exact .inl (cmdOp_of_masked (by decide) h1)
  · exact .inr (.inl (cmdOp_of_masked (by decide) h2))
  · exact .inr (.inr (cmdOp_of_masked (by decide) h3))

/-- The stateSize that `U_VALIDATE` lets pass lies in 1 to 256 (R126, R127). -/
theorem stateSize_bounds {v : Word} (h0 : 0 < v.toInt) (h256 : v.toInt ≤ 256) : 1 ≤ v.toNat ∧ v.toNat ≤ 256 := by
  rw [BitVec.toInt_eq_toNat_cond] at h0 h256
  have := v.isLt
  split at h0 <;> split at h256 <;> omega

theorem Inv.uValidate (h : Inv s) (hp : s.PHASE = P_VALIDATE) (e : execUValidate s = .next t) : Inv t := by
  have u := h.underway_of_phase hp (by decide)
  have len := h.fresh.lengths (by simp [hp])
  have tlen := h.fresh.trace (by simp [hp])
  obtain ⟨-, rfl⟩ | ⟨legal, admitted, written, rfl⟩ := execUValidate_eq_next.mp e
  · exact u.raise nofun
  have req (htext : s.PLEN ≠ 0) (hkey : s.KLEN ≠ 0) (q : BitVec 8) :
      RequestOk { s with PHASE := q } (cmdOp s.CMD) := ⟨legal, rfl, admitted, written, htext, hkey⟩
  obtain ⟨-, e⟩ | ⟨htext, hkey, ⟨-, -, e⟩ | ⟨op, nv, hpos, e⟩ | ⟨op, e⟩ | ⟨op1, op2, e⟩⟩ := s.checkOperands_cases <;>
    rw [e]
  · exact u.raise nofun
  · exact u.raise nofun
  · have hN := stateSize_bounds hpos ((State.excess_eq_none.mp admitted).stateSize op nv)
    exact Underway.at_spcInit (u.of_part rfl) rfl ⟨op ▸ req htext hkey _, hN⟩ len tlen
  · exact Underway.at_arxInit (u.of_part rfl) rfl (op ▸ req htext hkey _) len tlen
  · have op : cmdOp s.CMD = 3 := ((cmdOp_of_legal legal).resolve_left op1).resolve_left op2
    exact Underway.at_pacClean (u.of_part rfl) rfl (op ▸ req htext hkey _) len tlen

/-! ### SPC -/

theorem Inv.uSpcInit (h : Inv s) (hp : s.PHASE = P_SPC_INIT) (e : execUSpcInit s = .next t) : Inv t := by
  have u := h.underway_of_phase hp (by decide)
  have len := h.fresh.lengths (by simp [hp])
  obtain ⟨req, hn, hn'⟩ := h.spc.request (by simp [hp])
  obtain ⟨-, rfl⟩ := execUSpcInit_eq_next.mp e
  exact Underway.at_ksa (u.of_part rfl) rfl ⟨{ req with }, hn, hn'⟩ len
    (isPermutation_identityBelow s.S hn') hn hn

theorem Inv.uKsaStep (h : Inv s) (hp : s.PHASE = P_KSA) (e : execUKsaStep s = .next t) : Inv t := by
  have u := h.underway_of_phase hp (by decide)
  have len := h.fresh.lengths (by simp [hp])
  obtain ⟨req, hn, hn'⟩ := h.spc.request (by simp [hp])
  obtain ⟨hidx, -⟩ := h.spc.ksa hp
  obtain ⟨_, i, kb, rfl, h0, -, hi, -, -, rfl⟩ := execUKsaStep_eq_next.mp e
  have perm := isPermutation_ksaSwap h0 hn' (hi ▸ hidx) kb (h.spc.permutation (by simp [hp]))
  have body : Underway (ksaBody s s.N.toNat i kb) := (u.emit _).of_part rfl
  rw [ksaNext_eq]
  split
  · next hmore =>
    exact Underway.at_ksa (body.of_part rfl) hp ⟨{ req with }, hn, hn'⟩ len perm
      (Word.succ_toNat_lt hmore) (modIndex_lt h0 hn')
  · exact Underway.at_prgaInit (body.of_part rfl) rfl ⟨{ req with }, hn, hn'⟩ len perm

theorem Inv.uPrgaInit (h : Inv s) (hp : s.PHASE = P_PRGA_INIT) (e : execUPrgaInit s = .next t) : Inv t := by
  have u := h.underway_of_phase hp (by decide)
  obtain ⟨holen, hkslen⟩ := h.fresh.lengths (by simp [hp])
  obtain ⟨req, hn, hn'⟩ := h.spc.request (by simp [hp])
  obtain rfl := execUPrgaInit_eq_next.mp e
  exact Underway.at_prga (u.of_part rfl) rfl ⟨{ req with }, hn, hn'⟩
    (h.spc.permutation (by simp [hp])) ⟨req.plen_pos, hn, hn, holen, hkslen, State.encrypted_zero _⟩

theorem Inv.uPrgaStep (h : Inv s) (hp : s.PHASE = P_PRGA) (e : execUPrgaStep s = .next t) : Inv t := by
  have u := h.underway_of_phase hp (by decide)
  obtain ⟨req, hn, hn'⟩ := h.spc.request (by simp [hp])
  obtain ⟨hidx, -, -, holen, hkslen, henc⟩ := h.spc.prga hp
  obtain ⟨_, p, rfl, h0, -, hpt, fits, rfl⟩ := execUPrgaStep_eq_next.mp e
  have perm := isPermutation_prgaS h0 hn' (h.spc.permutation (by simp [hp]))
  have stored := u.stored holen hkslen fits p (prgaZ s s.N.toNat)
  have body : Underway (prgaBody s s.N.toNat p) := (stored.emit _).of_part rfl
  have henc' : (prgaBody s s.N.toNat p).encrypted (s.IDX + 1).toNat := State.encrypted_stored henc hpt _
  rw [prgaNext_eq]
  split
  · next hmore =>
    exact Underway.at_prga (body.of_part rfl) hp ⟨{ req with }, hn, hn'⟩ perm
      ⟨Word.succ_toNat_lt hmore, modIndex_lt h0 hn', modIndex_lt h0 hn', rfl, rfl, henc'⟩
  · next hlast =>
    have hlen : s.IDX + 1 = s.PLEN := Word.succ_eq_of_last hidx hlast
    exact Underway.at_spcVerify (body.of_part rfl) rfl ⟨{ req with }, hn, hn'⟩ perm
      ⟨hlen, hlen, hlen ▸ henc'⟩

theorem Inv.uSpcVerify (h : Inv s) (hp : s.PHASE = P_SPC_VERIFY) (e : execUSpcVerify s = .next t) : Inv t := by
  have u := h.underway_of_phase hp (by decide)
  obtain ⟨req, -⟩ := h.spc.request (by simp [hp])
  obtain ⟨-, hkslen, -⟩ := h.spc.verify hp
  obtain ⟨out, ks, pt, ⟨lpt, -⟩, hrec, rfl⟩ := h.exists_verifyNext hp e
  rw [verifyNext_of_recovered hrec]
  have memory : MemoryOk { s with REC := s.REC.writeAll 0 pt, VERIFY_OK := true } :=
    { u.memory.writeAll .REC (vs := pt) (lpt ▸ req.plen_le) with }
  refine inv_finish (memory.emit _) u.noError
    { out := u.out
      ks := u.ks
      trace := filledBelow_emit u.trace _
      recovered := fun _ _ => ?_
      block := fun _ arx => absurd (req.engine.symm.trans arx) (by decide)
      verified := iff_of_true rfl ⟨rfl, req.engine⟩ }
  show (s.REC.writeAll 0 pt).filledBelow s.KSLEN.toNat
  rw [hkslen, ← lpt]
  exact Memory.filledBelow_writeAll _ _

/-! ### ARX -/

theorem Inv.uArxInit (h : Inv s) (hp : s.PHASE = P_ARX_INIT) (e : execUArxInit s = .next t) : Inv t := by
  have u := h.underway_of_phase hp (by decide)
  have req := h.arx.request (by simp [hp])
  obtain ⟨key, nonce, -, -, rfl⟩ := execUArxInit_eq_next.mp e
  have body : Underway ({ s with MI := initialMatrix key nonce }.emit (.arxInit (initialMatrix key nonce))) :=
    (u.emit _).of_part rfl
  exact Underway.at_arxBlock (body.of_part rfl) (by simp) { req with }
    (h.fresh.lengths (by simp [hp])) nofun

theorem Inv.uArxCopy (h : Inv s) (hp : s.PHASE = P_ARX_COPY) (e : execUArxCopy s = .next t) : Inv t := by
  have u := h.underway_of_phase hp (by decide)
  have req := h.arx.request (by simp [hp])
  obtain rfl := execUArxCopy_eq_next.mp e
  exact Underway.at_arxBlock (u.of_part rfl) (by simp) { req with }
    (h.fresh.lengths (by simp [hp])) fun _ => (by decide : (0 : BitVec 7).toNat < 80)

/-- `U_ARX_QR` before it closes its loop. -/
def arxQrBody (s : State) : State :=
  { s with MW := quarterRoundAt s.MW (group (slotOf s.QN.toNat)) }.emit (arxQrEmitted s)

theorem arxQrNext_eq (s : State) : arxQrNext s =
    if s.QN.toNat < 79 then { arxQrBody s with QN := s.QN + 1 } else { arxQrBody s with PHASE := P_ARX_FINAL } := rfl

theorem Inv.uArxQr (h : Inv s) (hp : s.PHASE = P_ARX_QR) (e : execUArxQr s = .next t) : Inv t := by
  have u := h.underway_of_phase hp (by decide)
  have req := h.arx.request (by simp [hp])
  have len := h.fresh.lengths (by simp [hp])
  obtain rfl := execUArxQr_eq_next.mp e
  have body : Underway (arxQrBody s) := (u.emit _).of_part rfl
  rw [arxQrNext_eq]
  split
  · next hmore =>
    have hqn : (s.QN + 1).toNat < 80 := by
      rw [BitVec.toNat_add]
      exact Nat.lt_of_le_of_lt (Nat.mod_le _ _) (Nat.succ_lt_succ hmore)
    exact Underway.at_arxBlock (body.of_part rfl)
      (by show s.PHASE ∈ _; simp [hp]) { req with } len fun _ => hqn
  · exact Underway.at_arxBlock (body.of_part rfl) (by simp) { req with } len nofun

theorem Inv.uArxFinal (h : Inv s) (hp : s.PHASE = P_ARX_FINAL) (e : execUArxFinal s = .next t) : Inv t := by
  have u := h.underway_of_phase hp (by decide)
  have req := h.arx.request (by simp [hp])
  obtain ⟨holen, hkslen⟩ := h.fresh.lengths (by simp [hp])
  obtain rfl := execUArxFinal_eq_next.mp e
  have hlen := serialize_length (matrixSum s.MW s.MI)
  have memory := u.memory.writeAll .BLOCK (vs := serialize (matrixSum s.MW s.MI)) (by rw [hlen]; decide)
  have body := Underway.emit (s := { s with BLOCK := s.BLOCK.writeAll 0 (serialize (matrixSum s.MW s.MI)) })
    { u with memory := memory } (.arxFinal s.MW (matrixSum s.MW s.MI) (serialize (matrixSum s.MW s.MI)))
  have hblock := Memory.filledBelow_writeAll s.BLOCK (serialize (matrixSum s.MW s.MI))
  rw [hlen] at hblock
  exact Underway.at_arxXor (body.of_part rfl) rfl { req with }
    ⟨req.plen_pos, holen, hkslen, hblock, State.encrypted_zero _, nofun⟩

/-- `U_ARX_XOR` before it closes its loop. -/
def arxXorBody (s : State) (p z : Byte) : State :=
  (s.stored p z).emit (.arxXor s.IDX.toNat (s.IDX.toNat % 64) p z (p ^^^ z))

theorem arxXorNext_eq (s : State) (p z : Byte) : arxXorNext s p z =
    if s.IDX.toNat + 1 < s.PLEN.toNat then { arxXorBody s p z with IDX := s.IDX + 1 } else (arxXorBody s p z).finish :=
  rfl

/-- The keystream is the block, repeated (R190, R191). -/
theorem keystream_stored (h : ∀ k, k < s.IDX.toNat → s.KS.read k = s.BLOCK.read (k % 64)) {z : Byte}
    (hz : s.BLOCK.read (s.IDX.toNat % 64) = some z) (p : Byte) :
    ∀ k, k < (s.IDX + 1).toNat → (s.stored p z).KS.read k = s.BLOCK.read (k % 64) := by
  intro k hk
  have hle := Word.succ_toNat_le s.IDX
  rcases Nat.lt_or_eq_of_le (Nat.le_of_lt_succ (hk.trans_le hle)) with hlt | rfl
  · exact (Memory.read_write_other _ _ hlt.ne).trans (h k hlt)
  · exact (Memory.read_write_same _ _ _).trans hz.symm

theorem Inv.uArxXor (h : Inv s) (hp : s.PHASE = P_ARX_XOR) (e : execUArxXor s = .next t) : Inv t := by
  have u := h.underway_of_phase hp (by decide)
  have req := h.arx.request (by simp [hp])
  obtain ⟨-, holen, hkslen, hblock, henc, hrepeat⟩ := h.arx.xor hp
  obtain ⟨p, z, hpt, hz, fits, rfl⟩ := execUArxXor_eq_next.mp e
  have body : Underway (arxXorBody s p z) := (u.stored holen hkslen fits p z).emit _
  rw [arxXorNext_eq]
  split
  · next hmore =>
    exact Underway.at_arxXor (body.of_part rfl) hp { req with }
      ⟨Word.succ_toNat_lt hmore, rfl, rfl, hblock, State.encrypted_stored henc hpt z, keystream_stored hrepeat hz p⟩
  · have hspc : cmdOp s.CMD ≠ 1 := by rw [req.engine]; decide
    exact body.finish hspc fun _ => hblock

/-! ### PAC -/

theorem isUpper_upper {c : Byte} (h : isLetter c = true) : isUpper (upper c) = true := by
  rw [isLetter, Bool.or_eq_true] at h
  unfold upper
  split
  · next hl =>
    simp only [isLower, isUpper, decide_eq_true_eq] at hl ⊢
    rw [BitVec.toNat_sub_of_le (BitVec.le_def.mpr (by simp; omega))]
    simp; omega
  · next hl => exact h.resolve_right hl

theorem isUpper_of_mem_cleanKey {key : List Byte} {v : Byte} (h : v ∈ cleanKey key) : isUpper v = true := by
  obtain ⟨c, hc, rfl⟩ := List.mem_map.mp h
  exact isUpper_upper (List.mem_filter.mp hc).2

theorem Underway.pacCleaned (u : Underway s) {ckey : List Byte} (fits : ckey.length ≤ Config.KEY_MAX) :
    Underway (pacCleaned s ckey) := by
  refine .emit ?_ _
  exact { u with memory := { u.memory.writeAll .CKEY fits with } }

/-- The elements of `CKEY` that `U_PAC_CLEAN` writes are upper-case letters (R44). -/
theorem ckey_letters (m : Memory Byte) (key : List Byte) :
    ∀ k, k < (cleanKey key).length → ∃ v, (m.writeAll 0 (cleanKey key)).read k = some v ∧ isUpper v = true := by
  intro k hk
  refine ⟨(cleanKey key)[k], ?_, isUpper_of_mem_cleanKey (List.getElem_mem hk)⟩
  rw [(storedAll_writeAll m (cleanKey key)).values k hk, List.getElem?_eq_getElem hk]

theorem Inv.uPacClean (h : Inv s) (hp : s.PHASE = P_PAC_CLEAN) (e : execUPacClean s = .next t) : Inv t := by
  have u := h.underway_of_phase hp (by decide)
  have req := h.pac.request (by simp [hp])
  obtain ⟨holen, hkslen⟩ := h.fresh.lengths (by simp [hp])
  obtain ⟨key, ⟨hlen, -⟩, ⟨hne, hfits, rfl⟩ | ⟨-, pt, ⟨hptlen, -⟩, -, rfl⟩⟩ := execUPacClean_eq_next.mp e
  · have body := u.pacCleaned hfits
    have hle : (cleanKey key).length ≤ s.KLEN.toNat := hlen ▸ cleanKey_length_le key
    have hclen : (BitVec.ofNat 32 (cleanKey key).length).toNat = (cleanKey key).length := by
      rw [BitVec.toNat_ofNat, Nat.mod_eq_of_lt (by have := s.KLEN.isLt; omega)]
    have hletters := ckey_letters s.CKEY key
    rw [← hclen] at hle hletters
    refine Underway.at_pacChar (body.of_part rfl) rfl { req with }
      ⟨req.plen_pos, ?_, Nat.le_refl _, hkslen, ?_, hle, hletters⟩
    · show s.OLEN.toNat ≤ 0
      rw [holen]; exact Nat.le_refl _
    · show 1 ≤ (BitVec.ofNat 32 (cleanKey key).length).toNat
      rw [hclen]; exact List.length_pos_of_ne_nil hne
  · have body := u.pacCleaned (ckey := []) (Nat.zero_le _)
    have memory := body.memory.writeAll .OUT (vs := pt) (hptlen ▸ req.plen_le)
    have hout := Memory.filledBelow_writeAll s.OUT pt
    rw [hptlen] at hout
    have fallback : Underway { pacCleaned s [] with OUT := s.OUT.writeAll 0 pt, OLEN := s.PLEN } :=
      { body with memory := { memory with }, out := hout }
    exact fallback.raise nofun

/-- The end of a character: s1 is the state before the loop is closed. -/
theorem Underway.pacLoop {s1 : State} (u : Underway s1) (hp : s1.PHASE = P_PAC_CHAR) (req : RequestOk s1 3)
    (hplen : s1.PLEN = s.PLEN) (hout : s1.OLEN.toNat ≤ s.IDX.toNat + 1) (hcur : s1.CUR.toNat ≤ s.IDX.toNat + 1)
    (hkslen : s1.KSLEN = 0) (hclen : 1 ≤ s1.CLEN.toNat) (hclen' : s1.CLEN.toNat ≤ s1.KLEN.toNat)
    (hckey : ∀ k, k < s1.CLEN.toNat → ∃ v, s1.CKEY.read k = some v ∧ isUpper v = true) : Inv (pacLoop s s1) := by
  unfold Machine.pacLoop
  split
  · next hmore =>
    have hidx : (s.IDX + 1).toNat = s.IDX.toNat + 1 := Word.succ_toNat (by have := s.PLEN.isLt; omega)
    rw [← hidx] at hout hcur
    exact Underway.at_pacChar { u with memory := { u.memory with } } hp { req with }
      ⟨hplen ▸ Word.succ_toNat_lt hmore, hout, hcur, hkslen, hclen, hclen', hckey⟩
  · refine u.finish ?_ fun arx => absurd (req.engine.symm.trans arx) (by decide)
    rw [req.engine]; decide

theorem Underway.pacAppended (u : Underway s) (fits : s.OLEN.toNat < Config.PT_MAX) (c : Byte) :
    Underway (pacAppended s c) :=
  { u with
    memory := { u.memory.write .OUT c fits with }
    out := Memory.filledBelow_mono (Memory.filledBelow_write_succ u.out) (Word.succ_toNat_le _) }

theorem Underway.pacLetterNext (u : Underway s) (fits : s.OLEN.toNat < Config.PT_MAX) (c kl : Byte) :
    Underway (pacLetterNext s c kl) :=
  have emitted := (u.pacAppended fits (pacShifted s c kl)).emit (pacLetterEmitted s c kl)
  emitted.of_part rfl

theorem Inv.uPacChar (h : Inv s) (hp : s.PHASE = P_PAC_CHAR) (e : execUPacChar s = .next t) : Inv t := by
  have u := h.underway_of_phase hp (by decide)
  have req := h.pac.request (by simp [hp])
  obtain ⟨-, hout, hcur, hkslen, hclen, hclen', hckey⟩ := h.pac.char hp
  have hout' : (s.OLEN + 1).toNat ≤ s.IDX.toNat + 1 := (Word.succ_toNat_le _).trans (Nat.succ_le_succ hout)
  obtain ⟨c, -, ⟨-, fits, -, kl, -, -, rfl⟩ | ⟨-, -, fits, rfl⟩ | ⟨-, -, rfl⟩⟩ := execUPacChar_eq_next.mp e
  · exact (u.pacLetterNext fits c kl).pacLoop hp { req with } rfl hout'
      ((Counter.succ_toNat_le _ _ _ _).trans (Nat.succ_le_succ hcur)) hkslen hclen hclen' hckey
  · exact ((u.pacAppended fits c).emit _).pacLoop hp { req with } rfl hout' (Nat.le_succ_of_le hcur) hkslen hclen hclen'
      hckey
  · exact (u.emit _).pacLoop hp { req with } rfl (Nat.le_succ_of_le hout) (Nat.le_succ_of_le hcur) hkslen hclen hclen'
      hckey

/-! ### The sequencer -/

/-- The micro-operation that `PHASE` selects keeps the invariant. -/
theorem Inv.exec_selected (h : Inv s) {i : Instr} (hi : (s.PHASE, i) ∈ uopTable) (e : exec i s = .next t) : Inv t := by
  simp only [uopTable, List.mem_cons, List.not_mem_nil, or_false, Prod.mk.injEq] at hi
  rcases hi with ⟨hp, rfl⟩ | ⟨hp, rfl⟩ | ⟨hp, rfl⟩ | ⟨hp, rfl⟩ | ⟨hp, rfl⟩ | ⟨hp, rfl⟩ | ⟨hp, rfl⟩ | ⟨hp, rfl⟩ |
    ⟨hp, rfl⟩ | ⟨hp, rfl⟩ | ⟨hp, rfl⟩ | ⟨hp, rfl⟩ | ⟨hp, rfl⟩
  · exact h.uValidate hp e
  · exact h.uSpcInit hp e
  · exact h.uKsaStep hp e
  · exact h.uPrgaInit hp e
  · exact h.uPrgaStep hp e
  · exact h.uSpcVerify hp e
  · exact h.uArxInit hp e
  · exact h.uArxCopy hp e
  · exact h.uArxQr hp e
  · exact h.uArxFinal hp e
  · exact h.uArxXor hp e
  · exact h.uPacClean hp e
  · exact h.uPacChar hp e

theorem Inv.sequencerMove (h : Inv s) (e : sequencerMove s = .next t) : Inv t := by
  obtain ⟨i, hi, e⟩ := sequencerMove_eq_next.mp e
  exact h.exec_selected (mem_uopTable_of_decodeUop hi) e

end MicroOperations

/-! ## The acts from outside keep the invariant -/

section Outside

variable {s t : State}

theorem Inv.hStart {w : Word} (h : Inv s) (e : hStart w s = .next t) : Inv t := by
  obtain ⟨-, rfl⟩ := hStart_eq_next.mp e
  exact Underway.at_validate
    { memory := { h.memory with }
      busy := rfl
      noError := rfl
      unverified := rfl
      out := Memory.filledBelow_zero _
      ks := Memory.filledBelow_zero _
      trace := Memory.filledBelow_zero _ } rfl ⟨rfl, rfl⟩ rfl

theorem hWriteReg_cases {r : ReqReg} {v : Word} (e : hWriteReg r v s = .next t) : s.STATUS ≠ .busy ∧
    (t = { s with N := v } ∨ t = { s with PLEN := v } ∨ t = { s with KLEN := v } ∨ t = { s with NLEN := v }) := by
  unfold hWriteReg at e
  split at e
  · cases e
  · next hn => cases r <;> cases e <;> simp [hn]

theorem Inv.hWriteReg {r : ReqReg} {v : Word} (h : Inv s) (e : hWriteReg r v s = .next t) : Inv t := by
  obtain ⟨hn, rfl | rfl | rfl | rfl⟩ := hWriteReg_cases e <;>
    exact .of_rest { h.memory with } { h.status with } { h.results with } hn

theorem hWriteElem_eq_next {b : ReqBuf} {k : Nat} {v : Byte} : hWriteElem b k v s = .next t ↔ s.STATUS ≠ .busy ∧
    k < b.toByteBuf.extent ∧ t = s.setBuf b.toByteBuf ((s.buf b.toByteBuf).write k v) := by
  unfold hWriteElem
  split_ifs with hb hk
  · simp [hb]
  · simp [hb, hk, eq_comm]
  · simp [hk]

theorem Inv.hWriteElem {b : ReqBuf} {k : Nat} {v : Byte} (h : Inv s) (e : hWriteElem b k v s = .next t) : Inv t := by
  obtain ⟨hn, hk, rfl⟩ := hWriteElem_eq_next.mp e
  have memory := h.memory.write b.toByteBuf v hk
  cases b <;> exact .of_rest memory { h.status with } { h.results with } hn

/-- The invariant does not speak of what the host has read. -/
theorem Inv.withReturned (h : Inv s) (l : List HostValue) : Inv { s with returned := l } :=
  have request {op : BitVec 4} (q : RequestOk s op) : RequestOk { s with returned := l } op := { q with }
  { memory := { h.memory with }
    status := { h.status with }
    results := { h.results with }
    fresh := { h.fresh with }
    spc := { h.spc with request := fun hp => ⟨request (h.spc.request hp).1, (h.spc.request hp).2⟩ }
    arx := { h.arx with request := fun hp => request (h.arx.request hp) }
    pac := { h.pac with request := fun hp => request (h.pac.request hp) } }

theorem Inv.hRead {target : ReadTarget} (h : Inv s) (e : hRead target s = .next t) : Inv t := by
  unfold Machine.hRead at e
  split at e
  · cases e
  · obtain ⟨v, -, e⟩ := Res.andThen_eq_next.mp e
    cases e
    exact h.withReturned _

theorem Inv.hostMove {m : HostMove} (h : Inv s) (e : hostMove m s = .next t) : Inv t := by
  cases m with
  | writeReg r v => exact h.hWriteReg e
  | writeElem b k v => exact h.hWriteElem e
  | read target => exact h.hRead e
  | start w =>
    obtain ⟨v, hv⟩ := exists_hostMove_start_eq w s
    exact h.hStart (hv ▸ e)

theorem Inv.resetEvent (s : State) : Inv s.resetEvent :=
  (invariantHoldsAtReset.withInputs s.inputs).withReturned s.returned

theorem Inv.actOn {inp : Input} (h : Inv s) (e : actOn inp s = .next t) : Inv t := by
  cases inp with
  | pass => cases e; exact h
  | host m => exact h.hostMove e
  | hostNow m => exact h.hostMove e
  | reset => cases e; exact Inv.resetEvent s

/-- Settles O3: a step is a move of the sequencer or an act from outside. -/
theorem everyStepKeepsTheInvariant : Obligations.EveryStepKeepsTheInvariant := by
  intro s t h e
  unfold step at e
  split at e
  · unfold busyStep at e
    split at e
    · exact h.sequencerMove e
    · next inp rest _ =>
      split at e
      · exact (h.withInputs rest).actOn e
      · split at e
        · exact (h.withInputs rest).sequencerMove e
        · exact h.sequencerMove e
  · unfold restStep at e
    split at e
    · cases e; exact h
    · next inp rest _ => exact (h.withInputs rest).actOn e

end Outside

end Sys2Proof.Machine
end

section
/-! PROOFS. What the host's writes of the request change (O32), and that the zero padding of key and nonce is already
in the initial matrix (O29; 20_memory.md R77). -/

namespace Sys2Proof.Machine

/-! ## Writes of the host -/

section Writes

variable {s : State} (hn : s.STATUS ≠ .busy)

include hn

/-- Inside a request buffer the write of an element stores that element, and nothing else changes. -/
theorem hostMove_writeElem_of_lt (b : ReqBuf) (k : Nat) (v : Byte) (hk : k < b.toByteBuf.extent) :
    ∃ m, hostMove (.writeElem b k v) s = .next (s.setBuf b.toByteBuf m) ∧ Stored (s.buf b.toByteBuf) m k v :=
  ⟨_, hWriteElem_eq_next.mpr ⟨hn, hk, rfl⟩, stored_write _ k v⟩

theorem hostMove_writeElem_of_extent_le (b : ReqBuf) (k : Nat) (v : Byte) (hk : b.toByteBuf.extent ≤ k) :
    hostMove (.writeElem b k v) s = .refused .noSuchHostMove :=
  (if_neg hn).trans (if_neg hk.not_gt)

end Writes

/-- Settles O32: a register's write at rest has one branch per register, an element's write is decided by the extent of
the buffer. -/
theorem hostWritesOneLocation : Obligations.HostWritesOneLocation := fun _ hn =>
  have inside := hostMove_writeElem_of_lt hn
  have outside := hostMove_writeElem_of_extent_le hn
  ⟨fun _ => if_neg hn, fun _ => if_neg hn, fun _ => if_neg hn, fun _ => if_neg hn,
    inside .PT, inside .KEY, inside .NONCE, outside .PT, outside .KEY, outside .NONCE⟩

/-! ## Zero padding -/

/-- Padding with zeros by hand changes no byte of the padded string (R77). -/
theorem padded_append_zeros (l : List Byte) (a : Nat) : padded (l ++ List.replicate a 0) = padded l := by
  funext x
  unfold padded
  rcases Nat.lt_or_ge x l.length with hx | hx
  · exact List.getD_append _ _ _ _ hx
  · rw [List.getD_append_right _ _ _ _ hx, List.getD_eq_default _ _ hx]
    exact List.getElem?_getD_replicate_default_eq _ _ _

theorem paddedWord_append_zeros (l : List Byte) (a m : Nat) :
    paddedWord (l ++ List.replicate a 0) m = paddedWord l m := by
  unfold paddedWord
  rw [padded_append_zeros]

theorem initialMatrix_append_zeros (key nonce : List Byte) (a b : Nat) :
    initialMatrix (key ++ List.replicate a 0) (nonce ++ List.replicate b 0) = initialMatrix key nonce := by
  simp only [initialMatrix, paddedWord_append_zeros]

/-- `U_ARX_INIT` of a state that holds a key of at most 32 and a nonce of at most 12 bytes reads both in full (R183). -/
theorem MI_of_uArxInit {s t : State} {key nonce : List Byte} (key_le : key.length ≤ 32) (nonce_le : nonce.length ≤ 12)
    (klen : s.KLEN.toNat = key.length) (hkey : s.KEY.holds key) (nlen : s.NLEN.toNat = nonce.length)
    (hnonce : s.NONCE.holds nonce) (e : exec .uArxInit s = .next t) : t.MI = initialMatrix key nonce := by
  obtain ⟨key', nonce', keyHead, nonceHead, rfl⟩ := execUArxInit_eq_next.mp e
  have keyRead : s.keyHead = .next key :=
    State.readBytes_of_holds (by rw [klen, Nat.min_eq_left key_le]) hkey
  have nonceRead : s.nonceHead = .next nonce :=
    State.readBytes_of_holds (by rw [nlen, Nat.min_eq_left nonce_le]) hnonce
  cases keyRead.symm.trans keyHead
  cases nonceRead.symm.trans nonceHead
  rfl

/-- Settles O29: either state's matrix is the initial matrix of the bytes it holds, and that matrix pads with zeros. -/
theorem zeroPaddingGivesTheSameMatrix : Obligations.ZeroPaddingGivesTheSameMatrix := by
  intro s s' t t' key nonce a b key_le nonce_le klen hkey klen' hkey' nlen hnonce nlen' hnonce' e e'
  have length_padded (l : List Byte) (n : Nat) : (l ++ List.replicate n 0).length = l.length + n := by simp
  calc t'.MI
      = initialMatrix (key ++ List.replicate a 0) (nonce ++ List.replicate b 0) :=
        MI_of_uArxInit (by rwa [length_padded]) (by rwa [length_padded]) (by rwa [length_padded]) hkey'
          (by rwa [length_padded]) hnonce' e'
    _ = initialMatrix key nonce := initialMatrix_append_zeros key nonce a b
    _ = t.MI := (MI_of_uArxInit (Nat.le_of_add_right_le key_le) (Nat.le_of_add_right_le nonce_le) klen hkey nlen
        hnonce e).symm

end Sys2Proof.Machine
end

section
/-! PROOFS. Decoder and encoder: a register value decodes to an instruction exactly when it is its encoding (O9), the
illegal words (O10), words of the patterns (O8); and how a step and a command's start run what is decoded (O6, O7,
O11). -/

namespace Sys2Proof.Machine

/-! ## Decoding and encoding -/

/-- A word is fixed by its bits under a mask and its bits outside it. -/
theorem eq_or_of_masked {w m v : Word} (h : w &&& m = v) : w = v ||| (w &&& ~~~m) := by
  rw [← h, ← BitVec.and_or_distrib_left, BitVec.or_not_self, BitVec.and_allOnes]

/-- The bit that the pattern of RUN_SPC leaves open (R96). -/
theorem and_spcOpen (w : Word) : w &&& ~~~0xFFFFFFBF#32 = if cmdNv w then 0x40#32 else 0#32 :=
  BitVec.and_twoPow w 6

/-- The bits that the pattern of RUN_PAC leaves open (R98). -/
theorem and_pacOpen (w : Word) : w &&& ~~~0xFFFFFFCF#32 =
    (if cmdModeBit w then 0x10#32 else 0#32) ||| (if cmdPres w then 0x20#32 else 0#32) :=
  calc w &&& (0x10#32 ||| 0x20#32)
      = (w &&& BitVec.twoPow 32 4) ||| (w &&& BitVec.twoPow 32 5) := BitVec.and_or_distrib_left
    _ = _ := congrArg₂ _ (BitVec.and_twoPow w 4) (BitVec.and_twoPow w 5)

/-- A word decodes to no command but the one whose encoding it is (R96 to R98): the pattern fixes the other bits. -/
theorem encode_eq_of_decodeCmd {w : Word} {i : Instr} (h : decodeCmd w = .ok i) : encode i = .cmd w := by
  unfold decodeCmd at h
  split_ifs at h with spc arx pac
  · cases h
    have hw := eq_or_of_masked spc
    rw [and_spcOpen] at hw
    refine congrArg Encoded.cmd (Eq.trans ?_ hw.symm)
    cases cmdNv w <;> decide
  · cases h
    have hw : w = 2 := BitVec.and_allOnes.symm.trans arx
    rw [hw]; rfl
  · cases h
    have hw := eq_or_of_masked pac
    rw [and_pacOpen] at hw
    refine congrArg Encoded.cmd (Eq.trans ?_ hw.symm)
    cases cmdModeBit w <;> cases cmdPres w <;> decide

theorem decodeUop_eq_ok {c : BitVec 8} {i : Instr} : decodeUop c = .ok i ↔ encode i = .uop c := by
  refine ⟨fun h => encode_of_mem_uopTable (mem_uopTable_of_decodeUop h), fun h => ?_⟩
  cases i <;> cases h <;> rfl

theorem decodeCmd_eq_ok {w : Word} {i : Instr} : decodeCmd w = .ok i ↔ encode i = .cmd w := by
  refine ⟨encode_eq_of_decodeCmd, fun h => ?_⟩
  cases i with
  | runSpc nv => cases h; cases nv <;> rfl
  | runArx => cases h; rfl
  | runPac mode preserve => cases h; cases mode <;> cases preserve <;> rfl
  | _ => cases h

/-- Settles O9, format by format. -/
theorem decodeAndEncodeAgree : Obligations.DecodeAndEncodeAgree := by
  intro e i
  cases e with
  | cmd w => exact decodeCmd_eq_ok
  | uop c => exact decodeUop_eq_ok

/-- Settles O8. -/
theorem specWordsDecode : Obligations.SpecWordsDecode := by
  unfold Obligations.SpecWordsDecode
  decide

/-! ## Illegal words -/

theorem legalCommand_iff {w : Word} : legalCommand w = true ↔ ∃ i, encode i = .cmd w := by
  simp only [← decodeCmd_eq_ok]
  unfold legalCommand
  cases decodeCmd w <;> simp

/-- The reserved bits of a command's word are 0 (R91). -/
theorem toNat_lt_of_encode {i : Instr} {w : Word} (h : encode i = .cmd w) : w.toNat < 2 ^ 7 := by
  cases i with
  | runSpc nv => cases h; cases nv <;> decide
  | runArx => cases h; decide
  | runPac mode preserve => cases h; cases mode <;> cases preserve <;> decide
  | _ => cases h

/-- The words that R101 lists as illegal. -/
def IllegalWord (w : Word) : Prop :=
  (cmdOp w = 0 ∨ 4 ≤ (cmdOp w).toNat) ∨ 2 ^ 7 ≤ w.toNat ∨
    ((cmdModeBit w = true ∨ cmdPres w = true) ∧ (cmdOp w = 1 ∨ cmdOp w = 2)) ∨
    (cmdNv w = true ∧ (cmdOp w = 2 ∨ cmdOp w = 3))

theorem legalCommand_eq_false_of_small (w : Fin (2 ^ 7)) :
    legalCommand (BitVec.ofNat 32 w) = false ↔ IllegalWord (BitVec.ofNat 32 w) := by
  unfold IllegalWord
  revert w
  decide

/-- Settles O10: a word with a reserved bit set encodes nothing, and below 2^7 the rule is checked word by word. -/
theorem illegalWordsAreThoseOfTheRule : Obligations.IllegalWordsAreThoseOfTheRule := by
  intro w
  rcases Nat.lt_or_ge w.toNat (2 ^ 7) with hw | hw
  · have small := legalCommand_eq_false_of_small ⟨w.toNat, hw⟩
    rwa [BitVec.ofNat_toNat, BitVec.setWidth_eq] at small
  · refine iff_of_true (Bool.eq_false_iff.mpr fun legal => ?_) (.inr (.inl hw))
    obtain ⟨i, hi⟩ := legalCommand_iff.mp legal
    exact absurd (toNat_lt_of_encode hi) hw.not_gt

/-! ## Steps and the start of a run -/

/-- Settles O6. -/
theorem stepRunsTheSelectedMicroOperation : Obligations.StepRunsTheSelectedMicroOperation := by
  intro s i hb hi
  have move (s' : State) (hp : s'.PHASE = s.PHASE) : sequencerMove s' = exec i s' := sequencerMove_of_phase hp hi
  refine ⟨fun h => ?_, fun m rest h => ?_, fun rest h => ?_⟩
  · rw [step_of_busy hb (by simp [State.undisturbed, h]), move s rfl]
  · rw [step_of_busy hb (by simp [State.undisturbed, h]), move s rfl]
  · rw [← move { s with inputs := rest } rfl]
    simp [step, hb, busyStep, h, Input.preempts]

/-- The host's write of a word to `CMD` is H_START of that word, whether it selects a command or not (R101, R122). -/
theorem hostMove_start (w : Word) (s : State) : hostMove (.start w) s = hStart w s := by
  simp only [hostMove]
  split
  · next i hi => exact exec_of_encode_cmd (decodeCmd_eq_ok.mp hi) s
  · rfl

/-- The state after H_START(w). -/
def State.started (s : State) (w : Word) : State :=
  { s.clearResults with CMD := w, PHASE := P_VALIDATE, STATUS := .busy, draws := 0 }

theorem hStart_of_rest {s : State} (hn : s.STATUS ≠ .busy) (w : Word) : hStart w s = .next (s.started w) :=
  hStart_eq_next.mpr ⟨hn, rfl⟩

/-- Settles O7. -/
theorem stepRunsTheCommandTheHostWrites : Obligations.StepRunsTheCommandTheHostWrites := by
  intro s w rest hn hin
  have hstep : step s = hStart w { s with inputs := rest } := (step_of_rest hn hin).trans (hostMove_start w _)
  refine ⟨fun i hi => ?_, ?_⟩
  · rw [hstep, exec_of_encode_cmd (decodeCmd_eq_ok.mp hi)]
  · rw [hstep, hStart_of_rest (s := { s with inputs := rest }) hn]
    rfl

/-- H_START writes what R122 says and leaves the rest. -/
theorem startsRunWith_of_encode {i : Instr} {w : Word} (h : encode i = .cmd w) : StartsRunWith i w := fun s hn =>
  ⟨s.started w, (exec_of_encode_cmd h s).trans (hStart_of_rest hn w), rfl, rfl, rfl, rfl, rfl, rfl, rfl, rfl, rfl, rfl,
    rfl, rfl, rfl, rfl, rfl, rfl, ⟨rfl, rfl, rfl, rfl, rfl, rfl, rfl⟩, ⟨rfl, rfl, rfl⟩, ⟨rfl, rfl, rfl⟩,
    ⟨rfl, rfl, rfl⟩⟩

/-- Settles O11. -/
theorem commandsStartTheirRun : Obligations.CommandsStartTheirRun :=
  ⟨startsRunWith_of_encode rfl, startsRunWith_of_encode rfl, startsRunWith_of_encode rfl, startsRunWith_of_encode rfl,
    startsRunWith_of_encode rfl, startsRunWith_of_encode rfl, startsRunWith_of_encode rfl⟩

end Sys2Proof.Machine
end

section
/-! PROOFS. What whole runs are made of: a run in progress and its end, the trace and the buffers as the lists they hold,
and the passage of `U_VALIDATE` for a request that is loaded. -/

namespace Sys2Proof.Machine

variable {u s t : State}

/-! ## A run in progress -/

/-- After k steps from u the run stands at s: in progress all along, without an error, the host's side as it was. -/
structure InRun (u : State) (k : Nat) (s : State) : Prop where
  steps : steps k u = .next s
  before : ∀ m, m < k → ∃ v, Machine.steps m u = .next v ∧ v.STATUS = .busy
  hostSide : s.hostSide = u.hostSide
  undisturbed : u.undisturbed = true
  busy : s.STATUS = .busy
  noError : s.ERR = .noError
  unverified : s.VERIFY_OK = false

namespace InRun

variable {k : Nat}

theorem operands (h : InRun u k s) : SameOperands u s := (fields_of_hostSide h.hostSide).2.1

theorem CMD (h : InRun u k s) : s.CMD = u.CMD := (fields_of_hostSide h.hostSide).1

/-- The next step is the micro-operation of the phase (R125). -/
theorem move (h : InRun u k s) {p : BitVec 8} {i : Instr} (hp : s.PHASE = p) (hi : decodeUop p = .ok i)
    (e : exec i s = .next t) :
    Machine.steps (k + 1) u = .next t ∧ (∀ m, m < k + 1 → ∃ v, Machine.steps m u = .next v ∧ v.STATUS = .busy) ∧
      t.hostSide = u.hostSide := by
  obtain ⟨-, -, inputs, -⟩ := fields_of_hostSide h.hostSide
  have hstep : step s = .next t := by
    rw [step_of_busy h.busy (undisturbed_of_inputs inputs ▸ h.undisturbed), sequencerMove_of_phase hp hi, e]
  refine ⟨?_, fun m hm => ?_, (exec_uop_hostSide (decodeUop_eq_ok.mp hi) e).trans h.hostSide⟩
  · rw [steps_add, h.steps, Res.andThen_next, Machine.steps, hstep]
    rfl
  · rcases Nat.lt_succ_iff_lt_or_eq.mp hm with hlt | rfl
    · exact h.before m hlt
    · exact ⟨s, h.steps, h.busy⟩

/-- A micro-operation that leaves the run in progress. -/
theorem next (h : InRun u k s) {p : BitVec 8} {i : Instr} (hp : s.PHASE = p) (hi : decodeUop p = .ok i)
    (e : exec i s = .next t) (busy : t.STATUS = s.STATUS) (noError : t.ERR = s.ERR)
    (unverified : t.VERIFY_OK = s.VERIFY_OK) : InRun u (k + 1) t :=
  have ⟨steps, before, hostSide⟩ := h.move hp hi e
  { steps, before, hostSide
    undisturbed := h.undisturbed
    busy := busy.trans h.busy
    noError := noError.trans h.noError
    unverified := unverified.trans h.unverified }

/-- A micro-operation that ends the run. -/
theorem last (h : InRun u k s) {p : BitVec 8} {i : Instr} (hp : s.PHASE = p) (hi : decodeUop p = .ok i)
    (e : exec i s = .next t) (ended : t.STATUS ≠ .busy) : EndsAfter (k + 1) u t ∧ SameOperands u t ∧ t.CMD = u.CMD :=
  have ⟨steps, before, hostSide⟩ := h.move hp hi e
  have ⟨cmd, operands, _⟩ := fields_of_hostSide hostSide
  ⟨⟨steps, ended, before⟩, operands, cmd⟩

/-- The run as H_START leaves it. -/
theorem started (hu : s.undisturbed = true) (w : Word) : InRun (s.started w) 0 (s.started w) where
  steps := rfl
  before := nofun
  hostSide := rfl
  undisturbed := hu
  busy := rfl
  noError := rfl
  unverified := rfl

end InRun

/-- A loop whose body leads from each iteration below n to the next reaches its last one. -/
theorem exists_lastIteration {P : Nat → State → Prop} {n : Nat} (pos : 0 < n) (zero : ∃ v, P 0 v)
    (succ : ∀ {k v}, k + 1 < n → P k v → ∃ v', P (k + 1) v') : ∃ k v, k + 1 = n ∧ P k v := by
  have all (k : Nat) (hk : k < n) : ∃ v, P k v := by
    induction k with
    | zero => exact zero
    | succ k ih =>
      obtain ⟨v, hv⟩ := ih (by omega)
      exact succ hk hv
  obtain ⟨v, hv⟩ := all (n - 1) (Nat.sub_lt pos Nat.one_pos)
  exact ⟨n - 1, v, Nat.sub_add_cancel pos, hv⟩

/-! ## Buffers and trace as lists -/

theorem Memory.holds_nil {α : Type} (m : Memory α) : m.holds [] := nofun

/-- A value written behind a sequence extends it. -/
theorem Memory.holds.append {α : Type} {m : Memory α} {l : List α} (h : m.holds l) {k : Nat} (hk : k = l.length)
    (v : α) : (m.write k v).holds (l ++ [v]) := by
  subst hk
  intro x hx
  rw [Memory.read_write]
  split
  · next e => rw [e, List.getElem?_concat_length]
  · next ne =>
    have hlt : x < l.length := by simp at hx; omega
    rw [List.getElem?_append_left hlt, h x hlt]

/-- A buffer holds a value at every element of the sequence it holds. -/
theorem Memory.holds.read {m : Memory Byte} {l : List Byte} (h : m.holds l) {k : Nat} (hk : k < l.length) :
    m.read k = some (l.getD k 0) := by
  rw [h k hk, List.getD_eq_getElem?_getD, List.getElem?_eq_getElem hk, Option.getD_some]

/-- The trace is this list of records, as far as `TLEN` can count it (R14; assumption 6). -/
def Traced (s : State) (l : List TraceRecord) : Prop := l.length < 2 ^ 32 → s.TLEN.toNat = l.length ∧ s.TRACE.holds l

theorem Traced.emit {l : List TraceRecord} (h : Traced s l) {r r' : TraceRecord} (hr : r = r') :
    Traced (s.emit r) (l ++ [r']) := by
  subst hr
  intro hlen
  rw [List.length_append, List.length_singleton] at hlen ⊢
  obtain ⟨tlen, trace⟩ := h (by omega)
  exact ⟨by rw [State.emit_TLEN, Counter.succ_toNat (by omega), tlen], trace.append tlen r⟩

/-- The trace with one more record of a family. -/
theorem Traced.emit_range {l : List TraceRecord} {f : Nat → TraceRecord} {k : Nat}
    (h : Traced s (l ++ (List.range k).map f)) {r : TraceRecord} (hr : r = f k) :
    Traced (s.emit r) (l ++ (List.range (k + 1)).map f) := by
  rw [List.range_succ, List.map_append, ← List.append_assoc]
  exact h.emit hr

theorem traced_started (s : State) (w : Word) : Traced (s.started w) [] := fun _ => ⟨rfl, Memory.holds_nil _⟩

/-! ## Output bytes -/

theorem xorBytes_length {pt ks : List Byte} (h : ks.length = pt.length) : (xorBytes pt ks).length = pt.length := by
  rw [xorBytes, List.length_zipWith, h, Nat.min_self]

/-- The keystream applied twice gives the text back (R159, R196). -/
theorem xorBytes_xorBytes {pt ks : List Byte} (h : ks.length = pt.length) : xorBytes (xorBytes pt ks) ks = pt := by
  refine List.ext_getElem (by simp [xorBytes, h]) fun k _ _ => ?_
  simp only [xorBytes, List.getElem_zipWith]
  rw [BitVec.xor_assoc, BitVec.xor_self, BitVec.xor_zero]

/-- The output of a keystream engine is the text xor the keystream (R154, R190). -/
theorem State.holds_output {pt ks : List Byte} (h : s.encrypted pt.length) (hlen : ks.length = pt.length)
    (hpt : s.PT.holds pt) (hks : s.KS.holds ks) : s.OUT.holds (xorBytes pt ks) := by
  intro k hk
  rw [xorBytes_length hlen] at hk
  obtain ⟨p, z, hp, hz, ho⟩ := h k hk
  rw [ho, xorBytes, List.getElem?_zipWith, ← hpt k hk, ← hks k (by omega), hp, hz]

theorem State.encrypted_stored_succ {k : Nat} (h : s.encrypted k) (idx : s.IDX.toNat = k) (hk : k + 1 < 2 ^ 32)
    {p : Byte} (hp : s.PT.read k = some p) (z : Byte) : (s.stored p z).encrypted (k + 1) := by
  subst idx
  rw [← Word.succ_toNat hk]
  exact State.encrypted_stored h hp z

/-! ## Requests -/

theorem Loaded.of_sameOperands {pt key : List Byte} (h : Loaded u pt key) (o : SameOperands u s) : Loaded s pt key where
  PLEN := by rw [o.PLEN]; exact h.PLEN
  KLEN := by rw [o.KLEN]; exact h.KLEN
  PT := by rw [o.PT]; exact h.PT
  KEY := by rw [o.KEY]; exact h.KEY

theorem LoadedNonce.of_sameOperands {nonce : List Byte} (h : LoadedNonce u nonce) (o : SameOperands u s) :
    LoadedNonce s nonce where
  NLEN := by rw [o.NLEN]; exact h.NLEN
  NONCE := by rw [o.NONCE]; exact h.NONCE

theorem Loaded.PLEN_ne_zero {pt key : List Byte} (h : Loaded s pt key) (text : pt ≠ []) : s.PLEN ≠ 0 := fun e =>
  text (List.length_eq_zero_iff.mp (h.PLEN.symm.trans (congrArg BitVec.toNat e)))

theorem Loaded.KLEN_ne_zero {pt key : List Byte} (h : Loaded s pt key) (hkey : key ≠ []) : s.KLEN ≠ 0 := fun e =>
  hkey (List.length_eq_zero_iff.mp (h.KLEN.symm.trans (congrArg BitVec.toNat e)))

theorem Loaded.unwritten_eq_none {pt key : List Byte} (h : Loaded s pt key)
    (hnonce : cmdOp s.CMD = 2 → ∃ nonce, LoadedNonce s nonce) : s.unwritten = none := by
  refine State.unwritten_eq_none.mpr ⟨?_, ?_, fun op => ?_⟩
  · rw [h.PLEN]; exact Memory.filledBelow_of_holds h.PT
  · rw [h.KLEN]; exact Memory.filledBelow_of_holds h.KEY
  · obtain ⟨nonce, hn⟩ := hnonce op
    rw [hn.NLEN]; exact Memory.filledBelow_of_holds hn.NONCE

/-! The checks of `U_VALIDATE` pass, engine by engine (R126). -/

section Passed

variable (text : s.PLEN ≠ 0) (key : s.KLEN ≠ 0)

include text key

theorem State.checkOperands_of_spc (op : cmdOp s.CMD = 1) (nv : cmdNv s.CMD = true) (size : 0 < s.stateSize) :
    s.checkOperands = { s with PHASE := P_SPC_INIT } := by
  have supplied : ¬ (cmdNv s.CMD = false ∨ s.stateSize ≤ 0) := by simp [nv, size]
  rw [State.checkOperands, if_neg (not_or.mpr ⟨text, key⟩), if_pos op, if_neg supplied]

theorem State.checkOperands_of_arx (op : cmdOp s.CMD = 2) : s.checkOperands = { s with PHASE := P_ARX_INIT } := by
  rw [State.checkOperands, if_neg (not_or.mpr ⟨text, key⟩), if_neg (by rw [op]; decide), if_pos op]

theorem State.checkOperands_of_pac (op : cmdOp s.CMD = 3) : s.checkOperands = { s with PHASE := P_PAC_CLEAN } := by
  rw [State.checkOperands, if_neg (not_or.mpr ⟨text, key⟩), if_neg (by rw [op]; decide), if_neg (by rw [op]; decide)]

end Passed

/-- `U_VALIDATE` of a request that passes its checks goes to the first phase of the engine (R126). -/
theorem InRun.validated (hu : s.undisturbed = true) {w : Word} {p : BitVec 8} (legal : legalCommand w = true)
    (admitted : AdmittedRequest (s.started w)) (written : (s.started w).unwritten = none)
    (passed : (s.started w).checkOperands = { s.started w with PHASE := p }) :
    InRun (s.started w) 1 { s.started w with PHASE := p } :=
  (InRun.started hu w).next (i := .uValidate) rfl rfl
    (execUValidate_eq_next.mpr (.inr ⟨legal, State.excess_eq_none.mpr admitted, written, passed.symm⟩)) rfl rfl rfl

end Sys2Proof.Machine
end

section
/-! PROOFS. A whole run of RUN_SPC computes the function of R150 (O40): what each phase has made of the request after k
iterations; and a second run on the output gives the text back (O47). -/

namespace Sys2Proof.Machine

variable {u s t : State} {pt key : List Byte} {n k : Nat}

/-- A loaded request for RUN_SPC that passes its checks. -/
structure SpcLoaded (s : State) (pt key : List Byte) (n : Nat) : Prop extends Loaded s pt key where
  N : s.N.toNat = n
  pos : 0 < n
  le : n ≤ 256
  text : pt ≠ []
  key_ne : key ≠ []
  text_le : pt.length ≤ Config.PT_MAX
  key_le : key.length ≤ Config.KEY_MAX

namespace SpcLoaded

theorem of_sameOperands (h : SpcLoaded u pt key n) (o : SameOperands u s) : SpcLoaded s pt key n :=
  { h with toLoaded := h.toLoaded.of_sameOperands o, N := by rw [o.N]; exact h.N }

theorem started (h : SpcLoaded s pt key n) (w : Word) : SpcLoaded (s.started w) pt key n :=
  h.of_sameOperands ⟨rfl, rfl, rfl, rfl, rfl, rfl, rfl⟩

theorem stateSize_bounds (h : SpcLoaded s pt key n) : 0 < s.N.toInt ∧ s.N.toInt ≤ 256 := by
  have := h.N
  have := h.pos
  have := h.le
  rw [BitVec.toInt_eq_toNat_of_lt (by omega)]
  omega

/-- `U_VALIDATE` passes the request (R126, R127). -/
theorem validated (h : SpcLoaded s pt key n) (hu : s.undisturbed = true) :
    InRun (s.started 0x41) 1 { s.started 0x41 with PHASE := P_SPC_INIT } := by
  have ⟨hpos, hle⟩ := h.stateSize_bounds
  have no_arx {p : Prop} (op : cmdOp 0x41 = 2) : p := absurd op (by decide)
  have q := h.started 0x41
  exact .validated hu (legalCommand_iff.mpr ⟨.runSpc true, rfl⟩)
    ⟨h.PLEN ▸ h.text_le, h.KLEN ▸ h.key_le, fun _ _ => hle, no_arx, no_arx⟩
    (q.unwritten_eq_none no_arx)
    (State.checkOperands_of_spc (q.PLEN_ne_zero h.text) (q.KLEN_ne_zero h.key_ne)
      (show cmdOp 0x41 = 1 by decide) (show cmdNv 0x41 = true by decide) hpos)

end SpcLoaded

/-! ## The key schedule -/

/-- What the key schedule has made of `S`, `J` and the trace after k iterations. -/
structure KsaState (key : List Byte) (n k : Nat) (s : State) : Prop where
  S : sPrefix s.S n = (ksaAfter key n k).1
  J : s.J.toNat = (ksaAfter key n k).2
  trace : Traced s ((List.range k).map (ksaRecord key n))

/-- One iteration is one step of `SPC_KSA` (R150, R152). -/
theorem KsaState.body (h : KsaState key n k s) (pos : 0 < n) (le : n ≤ 256) (hk : k < n) {i : Byte}
    (idx : s.IDX.toNat = i.toNat) (hi : i.toNat = k) :
    KsaState key n (k + 1) (ksaBody s n i (key.getD (k % key.length) 0)) := by
  obtain rfl := hi
  have ltJ : (ksaIndex s n i (key.getD (i.toNat % key.length) 0)).toNat < n := modIndex_lt pos le
  have hJ : (ksaIndex s n i (key.getD (i.toNat % key.length) 0)).toNat = (ksaAfter key n (i.toNat + 1)).2 := by
    rw [ksaIndex, modIndex_toNat pos le, ← sPrefix_getD s.S hk, h.S, h.J]
    rfl
  have hS : sPrefix (swap s.S i (ksaIndex s n i (key.getD (i.toNat % key.length) 0))) n =
      (ksaAfter key n (i.toNat + 1)).1 := by
    rw [sPrefix_swap s.S hk ltJ, hJ, h.S]
    rfl
  refine ⟨hS, hJ, Traced.emit_range (l := []) h.trace ?_⟩
  rw [ksaRecord, idx, hJ, hS, h.S]

/-- The run u at iteration k of the key schedule. -/
structure AtKsa (u : State) (key : List Byte) (n k : Nat) (s : State) : Prop extends InRun u (2 + k) s where
  PHASE : s.PHASE = P_KSA
  IDX : s.IDX.toNat = k
  lt : k < n
  ksa : KsaState key n k s

theorem AtKsa.exec (h : AtKsa u key n k s) (q : SpcLoaded u pt key n) :
    ∃ i : Byte, s.IDX.toNat = i.toNat ∧ i.toNat = k ∧
      exec .uKsaStep s = .next (ksaNext s n i (key.getD (k % key.length) 0)) := by
  have q := q.of_sameOperands h.operands
  have hlt := h.lt
  have hi : (BitVec.ofNat 8 k).toNat = k := by
    rw [BitVec.toNat_ofNat]; exact Nat.mod_eq_of_lt (by have := q.le; omega)
  have hkey : s.KEY.read (s.IDX.toNat % s.KLEN.toNat) = some (key.getD (k % key.length) 0) := by
    rw [h.IDX, q.KLEN]
    exact q.KEY.read (Nat.mod_lt _ (List.length_pos_of_ne_nil q.key_ne))
  have hklen : s.KLEN.toNat ≠ 0 := by
    rw [q.KLEN]; exact fun e => q.key_ne (List.length_eq_zero_iff.mp e)
  exact ⟨_, h.IDX.trans hi.symm, hi,
    execUKsaStep_eq_next.mpr ⟨n, _, _, q.N, q.pos, q.le, h.IDX.trans hi.symm, hklen, hkey, rfl⟩⟩

theorem AtKsa.succ (h : AtKsa u key n k s) (q : SpcLoaded u pt key n) (more : k + 1 < n) :
    ∃ v, AtKsa u key n (k + 1) v := by
  obtain ⟨i, idx, hi, e⟩ := h.exec q
  have ksa := h.ksa.body q.pos q.le h.lt idx hi
  rw [ksaNext_eq, h.IDX, if_pos more] at e
  have hidx : (s.IDX + 1).toNat = k + 1 := by rw [Word.succ_toNat (by have := q.le; have := h.IDX; omega), h.IDX]
  exact ⟨_, { toInRun := h.next h.PHASE rfl e rfl rfl rfl, PHASE := h.PHASE, IDX := hidx, lt := more
              ksa := { ksa with } }⟩

/-- After the last iteration the sequencer goes to the generation phase. -/
theorem AtKsa.done (h : AtKsa u key n k s) (q : SpcLoaded u pt key n) (last : k + 1 = n) :
    ∃ v, InRun u (2 + n) v ∧ v.PHASE = P_PRGA_INIT ∧ KsaState key n n v := by
  obtain ⟨i, idx, hi, e⟩ := h.exec q
  have ksa := h.ksa.body q.pos q.le h.lt idx hi
  rw [ksaNext_eq, h.IDX, if_neg (by omega)] at e
  subst last
  exact ⟨_, h.next h.PHASE rfl e rfl rfl rfl, rfl, { ksa with }⟩

/-- `U_SPC_INIT` starts the key schedule (R151). -/
theorem SpcLoaded.atKsa_zero (h : SpcLoaded s pt key n) (hu : s.undisturbed = true) :
    ∃ v, AtKsa (s.started 0x41) key n 0 v := by
  have hn : s.N.toNat ≤ 256 := h.N ▸ h.le
  have hrun := (h.validated hu).next (i := .uSpcInit) rfl rfl (execUSpcInit_eq_next.mpr ⟨hn, rfl⟩) rfl rfl rfl
  refine ⟨_, { toInRun := hrun, PHASE := rfl, IDX := rfl, lt := h.pos,
               ksa := ⟨?_, rfl, traced_started s 0x41⟩ }⟩
  show sPrefix (identityBelow s.S s.N.toNat) n = _
  rw [h.N, sPrefix_identityBelow s.S h.le]
  rfl

/-! ## The generation phase -/

/-- What the generation phase has made of `S`, `I`, `J`, the result buffers and the trace after k bytes. -/
structure PrgaState (pt key : List Byte) (n k : Nat) (s : State) : Prop where
  S : sPrefix s.S n = (prgaAfter (spcKsa key n) n k).1
  I : s.I.toNat = (prgaAfter (spcKsa key n) n k).2.1
  J : s.J.toNat = (prgaAfter (spcKsa key n) n k).2.2
  KS : s.KS.holds (spcKeystream key n k)
  encrypted : s.encrypted k
  trace : Traced s ((List.range n).map (ksaRecord key n) ++ (List.range k).map (prgaRecord pt (spcKsa key n) n))

theorem spcKeystream_length (key : List Byte) (n len : Nat) : (spcKeystream key n len).length = len := by
  rw [spcKeystream, spcPrga, List.length_map, List.length_range]

theorem spcKeystream_succ (key : List Byte) (n k : Nat) :
    spcKeystream key n (k + 1) = spcKeystream key n k ++ [prgaByte (spcKsa key n) n k] := by
  rw [spcKeystream, spcPrga, List.range_succ, List.map_append]
  rfl

/-- One step of the generator is one step of `SPC_PRGA` (R150, R154). -/
theorem PrgaState.body (h : PrgaState pt key n k s) (pos : 0 < n) (le : n ≤ 256) (idx : s.IDX.toNat = k)
    (hk : k + 1 < 2 ^ 32) (hpt : s.PT.read k = some (pt.getD k 0)) :
    PrgaState pt key n (k + 1) (prgaBody s n (pt.getD k 0)) := by
  have ltI : (prgaI s n).toNat < n := modIndex_lt pos le
  have ltJ : (prgaJ s n).toNat < n := modIndex_lt pos le
  have ltT : (prgaT s n).toNat < n := modIndex_lt pos le
  have hI : (prgaI s n).toNat = (prgaAfter (spcKsa key n) n (k + 1)).2.1 := by
    rw [prgaI, modIndex_toNat pos le, h.I]
    rfl
  have hJ : (prgaJ s n).toNat = (prgaAfter (spcKsa key n) n (k + 1)).2.2 := by
    rw [prgaJ, modIndex_toNat pos le, ← sPrefix_getD s.S ltI, hI, h.S, h.J]
    rfl
  have hS : sPrefix (prgaS s n) n = (prgaAfter (spcKsa key n) n (k + 1)).1 := by
    rw [prgaS, sPrefix_swap s.S ltI ltJ, hI, hJ, h.S]
    rfl
  have hSI := sPrefix_getD (prgaS s n) ltI
  have hSJ := sPrefix_getD (prgaS s n) ltJ
  have hT : (prgaT s n).toNat = ((getS (prgaS s n) (prgaI s n)).toNat + (getS (prgaS s n) (prgaJ s n)).toNat) % n :=
    modIndex_toNat pos le
  have hZ : prgaZ s n = prgaByte (spcKsa key n) n k := by
    rw [prgaZ, ← sPrefix_getD (prgaS s n) ltT, hT, ← hSI, ← hSJ, hS, hI, hJ]
    rfl
  have hrecord : prgaEmitted s n (pt.getD k 0) = prgaRecord pt (spcKsa key n) n k := by
    rw [prgaEmitted, hT, ← hSI, ← hSJ, hZ, hS, hI, hJ, idx]
    rfl
  have hKS : (s.KS.write s.IDX.toNat (prgaZ s n)).holds (spcKeystream key n (k + 1)) := by
    rw [spcKeystream_succ, hZ]
    exact h.KS.append (by rw [spcKeystream_length, idx]) _
  exact ⟨hS, hI, hJ, hKS, State.encrypted_stored_succ h.encrypted idx hk hpt _, Traced.emit_range h.trace hrecord⟩

/-- The run u at byte k of the generation phase. -/
structure AtPrga (u : State) (pt key : List Byte) (n k : Nat) (s : State) : Prop extends InRun u (n + 3 + k) s where
  PHASE : s.PHASE = P_PRGA
  IDX : s.IDX.toNat = k
  lt : k < pt.length
  prga : PrgaState pt key n k s

/-- The run u at its in-run check. -/
structure AtSpcVerify (u : State) (pt key : List Byte) (n : Nat) (s : State) : Prop
    extends InRun u (n + 3 + pt.length) s where
  PHASE : s.PHASE = P_SPC_VERIFY
  KSLEN : s.KSLEN = u.PLEN
  OLEN : s.OLEN = u.PLEN
  prga : PrgaState pt key n pt.length s

theorem AtPrga.step (h : AtPrga u pt key n k s) (q : SpcLoaded u pt key n) :
    exec .uPrgaStep s = .next (prgaNext s n (pt.getD k 0)) ∧ PrgaState pt key n (k + 1) (prgaBody s n (pt.getD k 0)) := by
  have q := q.of_sameOperands h.operands
  have hlt := h.lt
  have hfits : k < Config.PT_MAX := hlt.trans_le q.text_le
  have hpt := q.PT.read hlt
  refine ⟨execUPrgaStep_eq_next.mpr ⟨n, _, q.N, q.pos, q.le, ?_, ?_, rfl⟩,
    h.prga.body q.pos q.le h.IDX (by have := Config.PT_MAX_lt; omega) hpt⟩
  · rw [h.IDX]; exact hpt
  · rw [h.IDX]; exact hfits

theorem AtPrga.succ (h : AtPrga u pt key n k s) (q : SpcLoaded u pt key n) (more : k + 1 < pt.length) :
    ∃ v, AtPrga u pt key n (k + 1) v := by
  obtain ⟨e, prga⟩ := h.step q
  have hplen := (q.of_sameOperands h.operands).PLEN
  have hmore : s.IDX.toNat + 1 < s.PLEN.toNat := by rw [h.IDX, hplen]; exact more
  have hidx : (s.IDX + 1).toNat = k + 1 := by
    rw [Word.succ_toNat (hmore.trans s.PLEN.isLt), h.IDX]
  rw [prgaNext_eq, if_pos hmore] at e
  exact ⟨_, { toInRun := h.next h.PHASE rfl e rfl rfl rfl, PHASE := h.PHASE, IDX := hidx, lt := more,
              prga := { prga with } }⟩

theorem AtPrga.done (h : AtPrga u pt key n k s) (q : SpcLoaded u pt key n) (last : k + 1 = pt.length) :
    ∃ v, AtSpcVerify u pt key n v := by
  obtain ⟨e, prga⟩ := h.step q
  have hplen := (q.of_sameOperands h.operands).PLEN
  have hlen : s.IDX + 1 = u.PLEN :=
    h.operands.PLEN ▸ Word.succ_eq_of_last (by have := h.IDX; omega) (by have := h.IDX; omega)
  rw [prgaNext_eq, if_neg (by rw [h.IDX, hplen]; omega)] at e
  have hrun := h.next h.PHASE rfl e rfl rfl rfl
  rw [Nat.add_assoc, last] at hrun
  rw [last] at prga
  exact ⟨_, { toInRun := hrun, PHASE := rfl, KSLEN := hlen, OLEN := hlen,
              prga := { prga with } }⟩

/-- `U_PRGA_INIT` starts the generation phase (R153). -/
theorem atPrga_zero (h : InRun u (2 + n) s) (hp : s.PHASE = P_PRGA_INIT) (ksa : KsaState key n n s)
    (q : SpcLoaded u pt key n) : ∃ v, AtPrga u pt key n 0 v := by
  have hrun := h.next (i := .uPrgaInit) hp rfl (execUPrgaInit_eq_next.mpr rfl) rfl rfl rfl
  rw [Nat.add_right_comm, Nat.add_comm] at hrun
  exact ⟨_, { toInRun := hrun, PHASE := rfl, IDX := rfl, lt := List.length_pos_of_ne_nil q.text
              prga := ⟨ksa.S, rfl, rfl, Memory.holds_nil _, State.encrypted_zero _,
                by rw [List.range_zero, List.map_nil, List.append_nil]; exact ksa.trace⟩ }⟩

/-! ## The whole run -/

theorem SpcLoaded.exists_atSpcVerify (h : SpcLoaded s pt key n) (hu : s.undisturbed = true) :
    ∃ v, AtSpcVerify (s.started 0x41) pt key n v := by
  have q := h.started 0x41
  obtain ⟨k, v, last, hv⟩ := exists_lastIteration h.pos (h.atKsa_zero hu) fun more hv => hv.succ q more
  obtain ⟨v, hrun, hp, ksa⟩ := hv.done q last
  obtain ⟨k, v, last, hv⟩ := exists_lastIteration (List.length_pos_of_ne_nil h.text) (atPrga_zero hrun hp ksa q)
    fun more hv => hv.succ q more
  exact hv.done q last

/-- What the end t of a run of RUN_SPC from s holds (R128, R150, R157). -/
structure SpcEnd (s : State) (pt key : List Byte) (n : Nat) (t : State) : Prop where
  ends : EndsAfter (n + pt.length + 4) (s.started 0x41) t
  STATUS : t.STATUS = .done
  ERR : t.ERR = .noError
  VERIFY_OK : t.VERIFY_OK = true
  KSLEN : t.KSLEN = s.PLEN
  OLEN : t.OLEN = s.PLEN
  KS : t.KS.holds (spcKeystream key n pt.length)
  OUT : t.OUT.holds (spcOutput pt key n)
  REC : t.REC.holds pt
  trace : Traced t (spcTrace pt key n)
  CMD : t.CMD = 0x00000041
  operands : SameOperands s t

/-- The in-run check recovers the text and ends the run (R155). -/
theorem AtSpcVerify.ends {v : State} (h : AtSpcVerify (s.started 0x41) pt key n v) (q : SpcLoaded s pt key n) :
    ∃ t, SpcEnd s pt key n t := by
  have q := (q.started 0x41).of_sameOperands h.operands
  have lks := spcKeystream_length key n pt.length
  have hout := State.holds_output h.prga.encrypted lks q.PT h.prga.KS
  have e : exec .uSpcVerify v = .next (verifyNext v (spcOutput pt key n) (spcKeystream key n pt.length) pt) :=
    execUSpcVerify_eq_next.mpr ⟨_, _, pt, ⟨(xorBytes_length lks).trans q.PLEN.symm, hout⟩,
      ⟨lks.trans q.PLEN.symm, h.prga.KS⟩, ⟨q.PLEN.symm, q.PT⟩, .inr (q.PLEN ▸ q.text_le), rfl⟩
  have recovered : xorBytes (spcOutput pt key n) (spcKeystream key n pt.length) = pt := xorBytes_xorBytes lks
  rw [verifyNext_of_recovered recovered] at e
  obtain ⟨ends, operands, cmd⟩ := h.last h.PHASE rfl e nofun
  rw [show n + 3 + pt.length + 1 = n + pt.length + 4 by omega] at ends
  exact ⟨_, { ends := ends, STATUS := rfl, ERR := h.noError, VERIFY_OK := rfl, KSLEN := h.KSLEN, OLEN := h.OLEN
              KS := h.prga.KS, OUT := hout, REC := (storedAll_writeAll v.REC pt).values
              trace := Traced.emit h.prga.trace rfl, CMD := cmd, operands := { operands with } }⟩

/-- A run of RUN_SPC on a loaded request goes from its start to that end. -/
theorem SpcLoaded.runs (h : SpcLoaded s pt key n) (hn : s.STATUS ≠ .busy) (hu : s.undisturbed = true) :
    exec (.runSpc true) s = .next (s.started 0x41) ∧ ∃ t, SpcEnd s pt key n t := by
  obtain ⟨v, hv⟩ := h.exists_atSpcVerify hu
  exact ⟨hStart_of_rest hn _, hv.ends h⟩

theorem spcTrace_length (pt key : List Byte) (n : Nat) : (spcTrace pt key n).length = n + pt.length + 1 := by
  simp [spcTrace, Nat.add_assoc]

/-- Settles O40. -/
theorem runSpcComputesItsFunction : Obligations.RunSpcComputesItsFunction := by
  intro s pt key n hn hu hl text key_ne text_le key_le hN h1 h256
  obtain ⟨start, t, h⟩ := SpcLoaded.runs ⟨hl, hN, h1, h256, text, key_ne, text_le, key_le⟩ hn hu
  have trace := h.trace
  rw [Traced, spcTrace_length] at trace
  exact ⟨_, t, start, h.ends, h.STATUS, h.ERR, h.VERIFY_OK, h.KSLEN, h.OLEN, h.KS, h.OUT, h.REC, trace, h.CMD,
    h.operands⟩

/-! ## The round trip -/

/-- What the host loads to decrypt (R286) is the output of the run, as a text, with its key. -/
theorem HoldsOutputAsText.loaded {s' : State} {out : List Byte} (h : HoldsOutputAsText s t s') (hl : Loaded s pt key)
    (hlen : t.OLEN.toNat = out.length) (hout : t.OUT.holds out) : Loaded s' out key where
  PLEN := by rw [h.PLEN, hlen]
  KLEN := by rw [h.KLEN, hl.KLEN]
  PT k hk := (h.PT k (hlen ▸ hk)).trans (hout k hk)
  KEY k hk := (h.KEY k (hl.KLEN ▸ hk)).trans (hl.KEY k hk)

/-- Settles O47: the second run has the keystream of the first, and applied to the output it gives the text. -/
theorem spcRoundTripByAFreshRun : Obligations.SpcRoundTripByAFreshRun := by
  intro s pt key n hn hu hl text key_ne text_le key_le hN h1 h256
  obtain ⟨start, t, h⟩ := SpcLoaded.runs ⟨hl, hN, h1, h256, text, key_ne, text_le, key_le⟩ hn hu
  refine ⟨_, t, start, h.ends, h.STATUS, fun s' hn' hu' holds hN' => ?_⟩
  have lks := spcKeystream_length key n pt.length
  have lout : (spcOutput pt key n).length = pt.length := xorBytes_length lks
  have hl' := holds.loaded hl (by rw [h.OLEN, hl.PLEN, lout]) h.OUT
  have out_ne : spcOutput pt key n ≠ [] := List.ne_nil_of_length_pos (lout ▸ List.length_pos_of_ne_nil text)
  obtain ⟨start', t', h'⟩ :=
    SpcLoaded.runs ⟨hl', hN' ▸ hN, h1, h256, out_ne, key_ne, lout ▸ text_le, key_le⟩ hn' hu'
  have ends := h'.ends
  have out := h'.OUT
  have ks := h'.KS
  rw [spcOutput, lout, spcOutput, xorBytes_xorBytes lks] at out
  rw [lout] at ends ks
  exact ⟨_, t', start', ends, h'.STATUS, by rw [h'.OLEN, holds.PLEN, h.OLEN], out,
    lks ▸ Memory.AgreeBelow.of_holds h.KS ks⟩

end Sys2Proof.Machine
end

section
/-! PROOFS. A whole run of RUN_ARX computes the function of R180 (O41): what each phase has made of the request after k
iterations; and its keystream repeats, and a second run on the output gives the text back (O49). -/

namespace Sys2Proof.Machine

variable {u s t : State} {pt key nonce : List Byte} {k : Nat}

/-- A loaded request for RUN_ARX that passes its checks. -/
structure ArxLoaded (s : State) (pt key nonce : List Byte) : Prop extends Loaded s pt key, LoadedNonce s nonce where
  text : pt ≠ []
  key_ne : key ≠ []
  text_le : pt.length ≤ Config.PT_MAX
  key_le : key.length ≤ 32
  nonce_le : nonce.length ≤ 12

namespace ArxLoaded

theorem of_sameOperands (h : ArxLoaded u pt key nonce) (o : SameOperands u s) : ArxLoaded s pt key nonce :=
  { h with toLoaded := h.toLoaded.of_sameOperands o, toLoadedNonce := h.toLoadedNonce.of_sameOperands o }

theorem started (h : ArxLoaded s pt key nonce) (w : Word) : ArxLoaded (s.started w) pt key nonce :=
  h.of_sameOperands ⟨rfl, rfl, rfl, rfl, rfl, rfl, rfl⟩

/-- `U_VALIDATE` passes the request (R126, R127). -/
theorem validated (h : ArxLoaded s pt key nonce) (hu : s.undisturbed = true) :
    InRun (s.started 0x2) 1 { s.started 0x2 with PHASE := P_ARX_INIT } := by
  have no_spc {p : Prop} (op : cmdOp 0x2 = 1) : p := absurd op (by decide)
  have q := h.started 0x2
  have key_le : s.KLEN.toNat ≤ 32 := h.KLEN ▸ h.key_le
  exact .validated hu (legalCommand_iff.mpr ⟨.runArx, rfl⟩)
    ⟨h.PLEN ▸ h.text_le, key_le.trans Config.KEY_MAX_ge, no_spc, fun _ => key_le, fun _ => h.NLEN ▸ h.nonce_le⟩
    (q.unwritten_eq_none fun _ => ⟨nonce, q.toLoadedNonce⟩)
    (State.checkOperands_of_arx (q.PLEN_ne_zero h.text) (q.KLEN_ne_zero h.key_ne) (show cmdOp 0x2 = 2 by decide))

/-- `U_ARX_INIT` reads key and nonce in full (R183). -/
theorem keyHead (h : ArxLoaded s pt key nonce) : s.keyHead = .next key :=
  State.readBytes_of_holds (by rw [h.KLEN, Nat.min_eq_left h.key_le]) h.KEY

theorem nonceHead (h : ArxLoaded s pt key nonce) : s.nonceHead = .next nonce :=
  State.readBytes_of_holds (by rw [h.NLEN, Nat.min_eq_left h.nonce_le]) h.NONCE

end ArxLoaded

/-! ## The block -/

/-- The run u has made q quarter-rounds (R187). -/
structure ArxState (u : State) (key nonce : List Byte) (q : Nat) (s : State) : Prop where
  MI : s.MI = initialMatrix key nonce
  MW : s.MW = arxAfter (initialMatrix key nonce) q
  REC : s.REC = u.REC
  trace : Traced s ([.arxInit (initialMatrix key nonce)] ++ (List.range q).map (arxQrRecord (initialMatrix key nonce)))

/-- One quarter-round is one step of `ARX_BLOCK` (R180, R187). -/
theorem ArxState.body (h : ArxState u key nonce k s) (qn : s.QN.toNat = k) :
    ArxState u key nonce (k + 1) (arxQrBody s) := by
  subst qn
  have hMW : quarterRoundAt s.MW (group (slotOf s.QN.toNat)) =
      arxAfter (initialMatrix key nonce) (s.QN.toNat + 1) := by
    rw [h.MW]
    rfl
  have hrecord : arxQrEmitted s = arxQrRecord (initialMatrix key nonce) s.QN.toNat := by
    rw [arxQrEmitted, arxQrRecord, hMW, h.MW]
  exact ⟨h.MI, hMW, h.REC, Traced.emit_range h.trace hrecord⟩

/-- The run u at quarter-round k. -/
structure AtArxQr (u : State) (key nonce : List Byte) (k : Nat) (s : State) : Prop extends InRun u (3 + k) s where
  PHASE : s.PHASE = P_ARX_QR
  QN : s.QN.toNat = k
  lt : k < 80
  arx : ArxState u key nonce k s

theorem AtArxQr.succ (h : AtArxQr u key nonce k s) (more : k + 1 < 80) : ∃ v, AtArxQr u key nonce (k + 1) v := by
  have arx := h.arx.body h.QN
  have e : exec .uArxQr s = .next (arxQrNext s) := execUArxQr_eq_next.mpr rfl
  rw [arxQrNext_eq, h.QN, if_pos (by omega)] at e
  have hqn : (s.QN + 1).toNat = k + 1 := by
    rw [BitVec.toNat_add, h.QN]
    exact Nat.mod_eq_of_lt (show k + 1 < 2 ^ 7 by omega)
  exact ⟨_, { toInRun := h.next h.PHASE rfl e rfl rfl rfl, PHASE := h.PHASE, QN := hqn, lt := more
              arx := { arx with } }⟩

/-- After the last quarter-round the sequencer goes to the final sums. -/
theorem AtArxQr.done (h : AtArxQr u key nonce 79 s) :
    ∃ v, InRun u 83 v ∧ v.PHASE = P_ARX_FINAL ∧ ArxState u key nonce 80 v := by
  have arx := h.arx.body h.QN
  have e : exec .uArxQr s = .next (arxQrNext s) := execUArxQr_eq_next.mpr rfl
  rw [arxQrNext_eq, h.QN, if_neg (by omega)] at e
  exact ⟨_, h.next h.PHASE rfl e rfl rfl rfl, rfl, { arx with }⟩

/-- `U_ARX_INIT` and `U_ARX_COPY` start the quarter-rounds (R183, R186). -/
theorem ArxLoaded.atArxQr_zero (h : ArxLoaded s pt key nonce) (hu : s.undisturbed = true) :
    ∃ v, AtArxQr (s.started 0x2) key nonce 0 v := by
  have hvalid := h.validated hu
  have q := (h.started 0x2).of_sameOperands hvalid.operands
  have hinit := hvalid.next (i := .uArxInit) rfl rfl
    (execUArxInit_eq_next.mpr ⟨key, nonce, q.keyHead, q.nonceHead, rfl⟩) rfl rfl rfl
  have hcopy := hinit.next (i := .uArxCopy) rfl rfl (execUArxCopy_eq_next.mpr rfl) rfl rfl rfl
  exact ⟨_, { toInRun := hcopy, PHASE := rfl, QN := rfl, lt := by decide
              arx := ⟨rfl, rfl, rfl, Traced.emit (traced_started s 0x2) rfl⟩ }⟩

/-! ## The keystream -/

/-- The trace of a run before the first output byte (R192). -/
def arxBlockTrace (key nonce : List Byte) : List TraceRecord :=
  [.arxInit (initialMatrix key nonce)] ++ (List.range 80).map (arxQrRecord (initialMatrix key nonce)) ++
    [.arxFinal (arxAfter (initialMatrix key nonce) 80)
      (matrixSum (arxAfter (initialMatrix key nonce) 80) (initialMatrix key nonce)) (arxBlock key nonce)]

/-- What the run u has made of the result buffers and the trace after k bytes. -/
structure ArxXorState (u : State) (pt key nonce : List Byte) (k : Nat) (s : State) : Prop where
  BLOCK : s.BLOCK.holds (arxBlock key nonce)
  KS : s.KS.holds (arxKeystream key nonce k)
  encrypted : s.encrypted k
  REC : s.REC = u.REC
  trace : Traced s (arxBlockTrace key nonce ++ (List.range k).map (arxXorRecord pt (arxBlock key nonce)))

theorem arxBlock_length (key nonce : List Byte) : (arxBlock key nonce).length = 64 := serialize_length _

theorem arxKeystream_length (key nonce : List Byte) (len : Nat) : (arxKeystream key nonce len).length = len := by
  rw [arxKeystream, List.length_map, List.length_range]

theorem arxKeystream_succ (key nonce : List Byte) (k : Nat) :
    arxKeystream key nonce (k + 1) = arxKeystream key nonce k ++ [(arxBlock key nonce).getD (k % 64) 0] := by
  rw [arxKeystream, List.range_succ, List.map_append]
  rfl

/-- One byte of the output (R180, R190). -/
theorem ArxXorState.body (h : ArxXorState u pt key nonce k s) (idx : s.IDX.toNat = k) (hk : k + 1 < 2 ^ 32)
    (hpt : s.PT.read k = some (pt.getD k 0)) :
    ArxXorState u pt key nonce (k + 1) (arxXorBody s (pt.getD k 0) ((arxBlock key nonce).getD (k % 64) 0)) where
  BLOCK := h.BLOCK
  KS := by
    rw [arxKeystream_succ]
    exact h.KS.append (by rw [arxKeystream_length, idx]) _
  encrypted := State.encrypted_stored_succ h.encrypted idx hk hpt _
  REC := h.REC
  trace := Traced.emit_range h.trace (by rw [arxXorRecord, idx])

/-- The run u at output byte k. -/
structure AtArxXor (u : State) (pt key nonce : List Byte) (k : Nat) (s : State) : Prop extends InRun u (84 + k) s where
  PHASE : s.PHASE = P_ARX_XOR
  IDX : s.IDX.toNat = k
  lt : k < pt.length
  arx : ArxXorState u pt key nonce k s

theorem AtArxXor.step (h : AtArxXor u pt key nonce k s) (q : ArxLoaded u pt key nonce) :
    exec .uArxXor s = .next (arxXorNext s (pt.getD k 0) ((arxBlock key nonce).getD (k % 64) 0)) ∧
      ArxXorState u pt key nonce (k + 1) (arxXorBody s (pt.getD k 0) ((arxBlock key nonce).getD (k % 64) 0)) := by
  have q := q.of_sameOperands h.operands
  have hlt := h.lt
  have hfits : k < Config.PT_MAX := hlt.trans_le q.text_le
  have hpt := q.PT.read hlt
  have hz := h.arx.BLOCK.read (k := k % 64) (by rw [arxBlock_length]; exact Nat.mod_lt _ (by decide))
  refine ⟨execUArxXor_eq_next.mpr ⟨_, _, ?_, ?_, ?_, rfl⟩,
    h.arx.body h.IDX (by have := Config.PT_MAX_lt; omega) hpt⟩
  · rw [h.IDX]; exact hpt
  · rw [h.IDX]; exact hz
  · rw [h.IDX]; exact hfits

theorem AtArxXor.succ (h : AtArxXor u pt key nonce k s) (q : ArxLoaded u pt key nonce) (more : k + 1 < pt.length) :
    ∃ v, AtArxXor u pt key nonce (k + 1) v := by
  obtain ⟨e, arx⟩ := h.step q
  have hmore : s.IDX.toNat + 1 < s.PLEN.toNat := by rw [h.IDX, (q.of_sameOperands h.operands).PLEN]; exact more
  have hidx : (s.IDX + 1).toNat = k + 1 := by rw [Word.succ_toNat (hmore.trans s.PLEN.isLt), h.IDX]
  rw [arxXorNext_eq, if_pos hmore] at e
  exact ⟨_, { toInRun := h.next h.PHASE rfl e rfl rfl rfl, PHASE := h.PHASE, IDX := hidx, lt := more
              arx := { arx with } }⟩

/-- `U_ARX_FINAL` starts the keystream (R189). -/
theorem atArxXor_zero (h : InRun u 83 s) (hp : s.PHASE = P_ARX_FINAL) (arx : ArxState u key nonce 80 s)
    (q : ArxLoaded u pt key nonce) : ∃ v, AtArxXor u pt key nonce 0 v := by
  have hblock : serialize (matrixSum s.MW s.MI) = arxBlock key nonce := by rw [arx.MW, arx.MI, arxBlock]
  have hrun := h.next (i := .uArxFinal) hp rfl (execUArxFinal_eq_next.mpr rfl) rfl rfl rfl
  refine ⟨_, { toInRun := hrun, PHASE := rfl, IDX := rfl, lt := List.length_pos_of_ne_nil q.text
               arx := ⟨?_, Memory.holds_nil _, State.encrypted_zero _, arx.REC, ?_⟩ }⟩
  · rw [← hblock]; exact (storedAll_writeAll s.BLOCK _).values
  · rw [List.range_zero, List.map_nil, List.append_nil]
    exact Traced.emit arx.trace (by rw [hblock, arx.MW, arx.MI])

/-! ## The whole run -/

/-- What the end t of a run of RUN_ARX from s holds (R129, R180, R192). -/
structure ArxEnd (s : State) (pt key nonce : List Byte) (t : State) : Prop where
  ends : EndsAfter (pt.length + 84) (s.started 0x2) t
  STATUS : t.STATUS = .done
  ERR : t.ERR = .noError
  VERIFY_OK : t.VERIFY_OK = false
  REC : t.REC = s.REC
  KSLEN : t.KSLEN = s.PLEN
  OLEN : t.OLEN = s.PLEN
  BLOCK : t.BLOCK.holds (arxBlock key nonce)
  KS : t.KS.holds (arxKeystream key nonce pt.length)
  OUT : t.OUT.holds (arxOutput pt key nonce)
  trace : Traced t (arxTrace pt key nonce)
  CMD : t.CMD = 0x00000002
  operands : SameOperands s t

/-- The last byte ends the run (R131, R190). -/
theorem AtArxXor.ends {v : State} (h : AtArxXor (s.started 0x2) pt key nonce k v) (q : ArxLoaded s pt key nonce)
    (last : k + 1 = pt.length) : ∃ t, ArxEnd s pt key nonce t := by
  obtain ⟨e, arx⟩ := h.step (q.started 0x2)
  have q := (q.started 0x2).of_sameOperands h.operands
  have hlast : ¬ v.IDX.toNat + 1 < v.PLEN.toNat := by rw [h.IDX, q.PLEN]; omega
  have hlen : v.IDX + 1 = s.PLEN :=
    h.operands.PLEN ▸ Word.succ_eq_of_last (by rw [h.IDX, q.PLEN]; exact h.lt) hlast
  rw [arxXorNext_eq, if_neg hlast] at e
  rw [last] at arx
  have lks := arxKeystream_length key nonce pt.length
  obtain ⟨ends, operands, cmd⟩ := h.last h.PHASE rfl e nofun
  rw [show 84 + k + 1 = pt.length + 84 by omega] at ends
  exact ⟨_, { ends := ends, STATUS := rfl, ERR := h.noError, VERIFY_OK := h.unverified, REC := arx.REC, KSLEN := hlen
              OLEN := hlen, BLOCK := arx.BLOCK, KS := arx.KS, OUT := State.holds_output arx.encrypted lks q.PT arx.KS
              trace := arx.trace, CMD := cmd, operands := { operands with } }⟩

/-- A run of RUN_ARX on a loaded request goes from its start to that end. -/
theorem ArxLoaded.runs (h : ArxLoaded s pt key nonce) (hn : s.STATUS ≠ .busy) (hu : s.undisturbed = true) :
    exec .runArx s = .next (s.started 0x2) ∧ ∃ t, ArxEnd s pt key nonce t := by
  have q := h.started 0x2
  obtain ⟨k, v, last, hv⟩ := exists_lastIteration (by decide) (h.atArxQr_zero hu) fun more hv => hv.succ more
  obtain rfl : k = 79 := by omega
  obtain ⟨v, hrun, hp, arx⟩ := hv.done
  obtain ⟨k, v, last, hv⟩ := exists_lastIteration (List.length_pos_of_ne_nil h.text) (atArxXor_zero hrun hp arx q)
    fun more hv => hv.succ q more
  exact ⟨hStart_of_rest hn _, hv.ends h last⟩

theorem arxTrace_length (pt key nonce : List Byte) : (arxTrace pt key nonce).length = pt.length + 82 := by
  simp [arxTrace]; omega

/-- Settles O41. -/
theorem runArxComputesItsFunction : Obligations.RunArxComputesItsFunction := by
  intro s pt key nonce hn hu hl hnonce text key_ne text_le key_le nonce_le
  obtain ⟨start, t, h⟩ := ArxLoaded.runs ⟨hl, hnonce, text, key_ne, text_le, key_le, nonce_le⟩ hn hu
  have trace := h.trace
  rw [Traced, arxTrace_length] at trace
  exact ⟨_, t, start, h.ends, h.STATUS, h.ERR, h.VERIFY_OK, h.REC, h.KSLEN, h.OLEN, h.BLOCK, h.KS, h.OUT, trace, h.CMD,
    h.operands⟩

/-! ## Block reuse and round trip -/

theorem arxKeystream_getElem? (key nonce : List Byte) {k len : Nat} (hk : k < len) :
    (arxKeystream key nonce len)[k]? = some ((arxBlock key nonce).getD (k % 64) 0) := by
  rw [arxKeystream, List.getElem?_map, List.getElem?_range hk, Option.map_some]

/-- The byte at k of what a run leaves: keystream, text and output (R190, R191). -/
theorem ArxEnd.reads (h : ArxEnd s pt key nonce t) (hl : Loaded s pt key) (hk : k < pt.length) :
    t.KS.read k = some ((arxBlock key nonce).getD (k % 64) 0) ∧ t.PT.read k = some pt[k] ∧
      t.OUT.read k = some (pt[k] ^^^ (arxBlock key nonce).getD (k % 64) 0) := by
  have lks := arxKeystream_length key nonce pt.length
  have hz := arxKeystream_getElem? key nonce hk
  refine ⟨?_, ?_, ?_⟩
  · rw [h.KS k (by omega), hz]
  · rw [h.operands.PT, hl.PT k hk, List.getElem?_eq_getElem hk]
  · rw [h.OUT k (by rw [arxOutput, xorBytes_length lks]; exact hk), arxOutput, xorBytes, List.getElem?_zipWith, hz,
      List.getElem?_eq_getElem hk]

theorem xor_xor_xor_same (c d z : Byte) : (c ^^^ z) ^^^ (d ^^^ z) = c ^^^ d := by
  rw [BitVec.xor_assoc, BitVec.xor_comm d z, ← BitVec.xor_assoc z z d, BitVec.xor_self, BitVec.zero_xor]

/-- Settles O49: bytes k and k + 64 meet the same byte of the block; and the second run has the keystream of the first,
which applied to the output gives the text. -/
theorem arxRoundTripAndBlockReuse : Obligations.ArxRoundTripAndBlockReuse := by
  intro s pt key nonce hn hu hl hnonce text key_ne text_le key_le nonce_le
  obtain ⟨start, t, h⟩ := ArxLoaded.runs ⟨hl, hnonce, text, key_ne, text_le, key_le, nonce_le⟩ hn hu
  refine ⟨_, t, start, h.ends, h.STATUS, fun k hk => ?_, fun s' hn' hu' holds hnlen' hnonce' => ?_⟩
  · obtain ⟨ks, text, out⟩ := h.reads hl (k := k) (by omega)
    obtain ⟨ks', text', out'⟩ := h.reads hl hk
    rw [Nat.add_mod_right] at ks' out'
    exact ⟨_, _, _, _, _, ks, ks'.trans ks.symm, out', out, text', text, xor_xor_xor_same _ _ _⟩
  · have lks := arxKeystream_length key nonce pt.length
    have lout : (arxOutput pt key nonce).length = pt.length := xorBytes_length lks
    have hl' := holds.loaded hl (by rw [h.OLEN, hl.PLEN, lout]) h.OUT
    have loadedNonce' : LoadedNonce s' nonce :=
      ⟨hnlen' ▸ hnonce.NLEN, fun x hx => (hnonce' x (hnonce.NLEN ▸ hx)).trans (hnonce.NONCE x hx)⟩
    have out_ne : arxOutput pt key nonce ≠ [] := List.ne_nil_of_length_pos (lout ▸ List.length_pos_of_ne_nil text)
    obtain ⟨start', t', h'⟩ :=
      ArxLoaded.runs ⟨hl', loadedNonce', out_ne, key_ne, lout ▸ text_le, key_le, nonce_le⟩ hn' hu'
    have ends := h'.ends
    have out := h'.OUT
    have ks := h'.KS
    rw [arxOutput, lout, arxOutput, xorBytes_xorBytes lks] at out
    rw [lout] at ends ks
    exact ⟨_, t', start', ends, h'.STATUS, by rw [h'.OLEN, holds.PLEN, h.OLEN], out,
      lks ▸ Memory.AgreeBelow.of_holds h.KS ks⟩

end Sys2Proof.Machine
end

section
/-! PROOFS. A whole run of RUN_PAC computes the function of R220 (O42): what each phase has made of the request after k
characters. -/

namespace Sys2Proof.Machine

variable {u s t : State} {pt key : List Byte} {mode : PacMode} {preserve : Bool} {k : Nat} {c : Byte}

/-! ## The fields of the command word (R91, R98) -/

theorem cmdOp_pacWord (mode : PacMode) (preserve : Bool) : cmdOp (pacWord mode preserve) = 3 := by
  cases mode <;> cases preserve <;> decide

theorem mode_pacWord (mode : PacMode) (preserve : Bool) : pacModeOfBit (cmdModeBit (pacWord mode preserve)) = mode := by
  cases mode <;> cases preserve <;> decide

theorem cmdPres_pacWord (mode : PacMode) (preserve : Bool) : cmdPres (pacWord mode preserve) = preserve := by
  cases mode <;> cases preserve <;> decide

/-- A loaded request for RUN_PAC whose key holds a letter. -/
structure PacLoaded (s : State) (pt key : List Byte) : Prop extends Loaded s pt key where
  text : pt ≠ []
  letter : cleanKey key ≠ []
  text_le : pt.length ≤ Config.PT_MAX
  key_le : key.length ≤ Config.KEY_MAX

namespace PacLoaded

theorem of_sameOperands (h : PacLoaded u pt key) (o : SameOperands u s) : PacLoaded s pt key :=
  { h with toLoaded := h.toLoaded.of_sameOperands o }

theorem started (h : PacLoaded s pt key) (w : Word) : PacLoaded (s.started w) pt key :=
  h.of_sameOperands ⟨rfl, rfl, rfl, rfl, rfl, rfl, rfl⟩

theorem key_ne (h : PacLoaded s pt key) : key ≠ [] := by
  rintro rfl
  exact h.letter rfl

/-- `U_VALIDATE` passes the request (R126, R127). -/
theorem validated (h : PacLoaded s pt key) (hu : s.undisturbed = true) (mode : PacMode) (preserve : Bool) :
    InRun (s.started (pacWord mode preserve)) 1 { s.started (pacWord mode preserve) with PHASE := P_PAC_CLEAN } := by
  have op := cmdOp_pacWord mode preserve
  have no_spc {p : Prop} (h : cmdOp (pacWord mode preserve) = 1) : p := absurd (op.symm.trans h) (by decide)
  have no_arx {p : Prop} (h : cmdOp (pacWord mode preserve) = 2) : p := absurd (op.symm.trans h) (by decide)
  have q := h.started (pacWord mode preserve)
  exact .validated hu (legalCommand_iff.mpr ⟨.runPac mode preserve, rfl⟩)
    ⟨h.PLEN ▸ h.text_le, h.KLEN ▸ h.key_le, no_spc, no_arx, no_arx⟩
    (q.unwritten_eq_none no_arx)
    (State.checkOperands_of_pac (q.PLEN_ne_zero h.text) (q.KLEN_ne_zero h.key_ne) op)

end PacLoaded

/-! ## The function, character by character -/

theorem pacFrom_append (ckey : List Byte) (c : Byte) (l : List Byte) : ∀ cur,
    pacFrom mode preserve ckey cur (l ++ [c]) =
      pacFrom mode preserve ckey cur l ++ pacFrom mode preserve ckey (cur + (l.filter isLetter).length) [c] := by
  induction l with
  | nil => intro cur; rfl
  | cons a l ih =>
    intro cur
    rw [List.cons_append, pacFrom, pacFrom, ih, ih]
    cases ha : isLetter a with
    | true => simp [ha, Nat.add_assoc, Nat.add_comm 1]
    | false => cases preserve <;> simp [ha]

theorem pacRecords_append (ckey : List Byte) (c : Byte) (l : List Byte) : ∀ k cur,
    pacRecords mode preserve ckey k cur (l ++ [c]) = pacRecords mode preserve ckey k cur l ++
      pacRecords mode preserve ckey (k + l.length) (cur + (l.filter isLetter).length) [c] := by
  induction l with
  | nil => intro k cur; rfl
  | cons a l ih =>
    intro k cur
    rw [List.cons_append, pacRecords, pacRecords, ih, ih]
    cases ha : isLetter a <;> simp [ha, Nat.add_assoc, Nat.add_comm 1]

theorem pacFrom_length_le (ckey : List Byte) (l : List Byte) : ∀ cur,
    (pacFrom mode preserve ckey cur l).length ≤ l.length := by
  induction l with
  | nil => intro cur; exact Nat.le_refl _
  | cons a l ih =>
    intro cur
    rw [pacFrom]
    split_ifs
    · exact Nat.succ_le_succ (ih _)
    · exact Nat.succ_le_succ (ih _)
    · exact Nat.le_succ_of_le (ih _)

theorem take_succ_of_getElem? (hc : pt[k]? = some c) : pt.take (k + 1) = pt.take k ++ [c] := by
  rw [List.take_add_one, hc, Option.toList_some]

/-- The number of letters before character k. -/
def lettersBefore (pt : List Byte) (k : Nat) : Nat := ((pt.take k).filter isLetter).length

theorem lettersBefore_le (pt : List Byte) (k : Nat) : lettersBefore pt k ≤ k :=
  (List.length_filter_le _ _).trans (List.length_take_le _ _)

theorem lettersBefore_succ (hc : pt[k]? = some c) :
    lettersBefore pt (k + 1) = lettersBefore pt k + if isLetter c then 1 else 0 := by
  rw [lettersBefore, take_succ_of_getElem? hc, List.filter_append, List.length_append, lettersBefore]
  cases hl : isLetter c <;> simp [hl]

theorem pacOutput_succ (hc : pt[k]? = some c) : pacOutput mode preserve (pt.take (k + 1)) key =
    pacOutput mode preserve (pt.take k) key ++ pacFrom mode preserve (cleanKey key) (lettersBefore pt k) [c] := by
  rw [pacOutput, take_succ_of_getElem? hc, pacFrom_append, Nat.zero_add]
  rfl

theorem pacTrace_succ (hc : pt[k]? = some c) : pacTrace mode preserve (pt.take (k + 1)) key =
    pacTrace mode preserve (pt.take k) key ++
      pacRecords mode preserve (cleanKey key) k (lettersBefore pt k) [c] := by
  have hk := (List.getElem?_eq_some_iff.mp hc).1
  rw [pacTrace, take_succ_of_getElem? hc, pacRecords_append, Nat.zero_add, Nat.zero_add,
    List.length_take_of_le hk.le]
  rfl

theorem pacOutput_length_le (pt key : List Byte) (k : Nat) : (pacOutput mode preserve (pt.take k) key).length ≤ k :=
  (pacFrom_length_le _ _ _).trans (List.length_take_le _ _)

/-! ## The state after k characters -/

/-- What the run has made of the working state, the output and the trace after k characters. -/
structure PacState (mode : PacMode) (preserve : Bool) (pt key : List Byte) (k : Nat) (s : State) : Prop where
  CKEY : s.CKEY.holds (cleanKey key)
  CLEN : s.CLEN.toNat = (cleanKey key).length
  CUR : s.CUR.toNat = lettersBefore pt k
  OLEN : s.OLEN.toNat = (pacOutput mode preserve (pt.take k) key).length
  OUT : s.OUT.holds (pacOutput mode preserve (pt.take k) key)
  KSLEN : s.KSLEN = 0
  trace : Traced s (pacTrace mode preserve (pt.take k) key)

namespace PacState

variable (h : PacState mode preserve pt key k s) (idx : s.IDX.toNat = k) (fits : k + 1 < 2 ^ 32)
  (hc : pt[k]? = some c)

/-- The key letter at the cursor. -/
def keyAt (key : List Byte) (s : State) : Byte := (cleanKey key).getD (s.CUR.toNat % (cleanKey key).length) 0

include h

theorem OLEN_le : s.OLEN.toNat ≤ k := h.OLEN ▸ pacOutput_length_le pt key k

include fits in
/-- One character appended to the output. -/
theorem appended {o : Byte} (hout : pacOutput mode preserve (pt.take (k + 1)) key =
    pacOutput mode preserve (pt.take k) key ++ [o]) :
    (pacAppended s o).OLEN.toNat = (pacOutput mode preserve (pt.take (k + 1)) key).length ∧
      (pacAppended s o).OUT.holds (pacOutput mode preserve (pt.take (k + 1)) key) := by
  rw [hout]
  refine ⟨?_, h.OUT.append h.OLEN o⟩
  have hle := h.OLEN_le
  show (s.OLEN + 1).toNat = _
  rw [Word.succ_toNat (by omega), h.OLEN, List.length_append, List.length_singleton]

include idx hc

include fits in
/-- A letter (R223 to R225). -/
theorem letter (hmode : pacModeOfBit (cmdModeBit s.CMD) = mode) (hl : isLetter c = true) :
    PacState mode preserve pt key (k + 1) (pacLetterNext s c (keyAt key s)) := by
  have hout : pacOutput mode preserve (pt.take (k + 1)) key =
      pacOutput mode preserve (pt.take k) key ++ [pacShifted s c (keyAt key s)] := by
    rw [pacOutput_succ hc, ← h.CUR, pacFrom, if_pos hl, pacFrom, pacShifted, keyAt, hmode]
  have hrecord : pacTrace mode preserve (pt.take (k + 1)) key =
      pacTrace mode preserve (pt.take k) key ++ [pacLetterEmitted s c (keyAt key s)] := by
    rw [pacTrace_succ hc, ← h.CUR, pacRecords, if_pos hl, pacRecords, pacLetterEmitted, pacShifted, hmode, h.CLEN, idx]
    rfl
  have hcur : (Counter.succ .cur s.runRequest (drawsAfter s.draws s.TLEN) s.CUR).toNat = lettersBefore pt (k + 1) := by
    have := lettersBefore_le pt k
    rw [Counter.succ_toNat (by rw [h.CUR]; omega), lettersBefore_succ hc, if_pos hl, h.CUR]
  have ⟨holen, hholds⟩ := h.appended fits hout
  have htrace := Traced.emit (s := pacAppended s (pacShifted s c (keyAt key s))) h.trace
    (rfl : pacLetterEmitted s c (keyAt key s) = _)
  rw [← hrecord] at htrace
  exact ⟨h.CKEY, h.CLEN, hcur, holen, hholds, h.KSLEN, htrace⟩

include fits in
/-- A character that is no letter and is kept (R226). -/
theorem kept (hl : isLetter c = false) (hp : preserve = true) :
    PacState mode preserve pt key (k + 1) ((pacAppended s c).emit (.pacChar s.IDX.toNat c .kept)) := by
  have hno : ¬ isLetter c = true := by simp [hl]
  have hout : pacOutput mode preserve (pt.take (k + 1)) key = pacOutput mode preserve (pt.take k) key ++ [c] := by
    rw [pacOutput_succ hc, pacFrom, if_neg hno, if_pos hp, pacFrom]
  have hrecord : pacTrace mode preserve (pt.take (k + 1)) key =
      pacTrace mode preserve (pt.take k) key ++ [.pacChar s.IDX.toNat c .kept] := by
    rw [pacTrace_succ hc, pacRecords, if_neg hno, if_pos hp, pacRecords, idx]
  have hcur : s.CUR.toNat = lettersBefore pt (k + 1) := by rw [lettersBefore_succ hc, if_neg hno, h.CUR, Nat.add_zero]
  have ⟨holen, hholds⟩ := h.appended fits hout
  have htrace := Traced.emit (s := pacAppended s c) h.trace (rfl : TraceRecord.pacChar s.IDX.toNat c .kept = _)
  rw [← hrecord] at htrace
  exact ⟨h.CKEY, h.CLEN, hcur, holen, hholds, h.KSLEN, htrace⟩

/-- A character that is no letter and is dropped (R226). -/
theorem dropped (hl : isLetter c = false) (hp : preserve = false) :
    PacState mode preserve pt key (k + 1) (s.emit (.pacChar s.IDX.toNat c .dropped)) := by
  have hno : ¬ isLetter c = true := by simp [hl]
  have hno' : ¬ preserve = true := by simp [hp]
  have hout : pacOutput mode preserve (pt.take (k + 1)) key = pacOutput mode preserve (pt.take k) key := by
    rw [pacOutput_succ hc, pacFrom, if_neg hno, if_neg hno', pacFrom, List.append_nil]
  have hrecord : pacTrace mode preserve (pt.take (k + 1)) key =
      pacTrace mode preserve (pt.take k) key ++ [.pacChar s.IDX.toNat c .dropped] := by
    rw [pacTrace_succ hc, pacRecords, if_neg hno, if_neg hno', pacRecords, idx]
  have hcur : s.CUR.toNat = lettersBefore pt (k + 1) := by rw [lettersBefore_succ hc, if_neg hno, h.CUR, Nat.add_zero]
  have htrace := Traced.emit h.trace (rfl : TraceRecord.pacChar s.IDX.toNat c .dropped = _)
  rw [← hrecord] at htrace
  exact ⟨h.CKEY, h.CLEN, hcur, hout ▸ h.OLEN, hout ▸ h.OUT, h.KSLEN, htrace⟩

end PacState

/-! ## The run -/

/-- The run u at character k. -/
structure AtPacChar (u : State) (mode : PacMode) (preserve : Bool) (pt key : List Byte) (k : Nat) (s : State) : Prop
    extends InRun u (2 + k) s where
  PHASE : s.PHASE = P_PAC_CHAR
  IDX : s.IDX.toNat = k
  lt : k < pt.length
  pac : PacState mode preserve pt key k s

/-- `U_PAC_CHAR` does the next character, and what it has made then passes the end of the loop (R223). -/
theorem AtPacChar.step (h : AtPacChar u mode preserve pt key k s) (q : PacLoaded u pt key)
    (hcmd : u.CMD = pacWord mode preserve) : ∃ s1, exec .uPacChar s = .next (pacLoop s s1) ∧
      PacState mode preserve pt key (k + 1) s1 ∧ s1.PHASE = s.PHASE ∧ s1.STATUS = s.STATUS ∧ s1.ERR = s.ERR ∧
      s1.VERIFY_OK = s.VERIFY_OK := by
  have q := q.of_sameOperands h.operands
  have hlt := h.lt
  have hc : pt[k]? = some pt[k] := List.getElem?_eq_getElem hlt
  have hread : s.PT.read s.IDX.toNat = some pt[k] := by rw [h.IDX, q.PT k hlt, hc]
  have hfit : k + 1 < 2 ^ 32 := by have := Config.PT_MAX_lt; have := q.text_le; omega
  have hroom : s.OLEN.toNat < Config.PT_MAX := by
    have := q.text_le
    exact h.pac.OLEN_le.trans_lt (by omega)
  have hmode : pacModeOfBit (cmdModeBit s.CMD) = mode := by rw [h.CMD, hcmd, mode_pacWord]
  have hpres : cmdPres s.CMD = preserve := by rw [h.CMD, hcmd, cmdPres_pacWord]
  cases hl : isLetter pt[k] with
  | true =>
    have hpos : 0 < (cleanKey key).length := List.length_pos_of_ne_nil q.letter
    have hki := Nat.mod_lt s.CUR.toNat hpos
    have hkl : s.CKEY.read (s.CUR.toNat % s.CLEN.toNat) = some (PacState.keyAt key s) := by
      rw [h.pac.CLEN]; exact h.pac.CKEY.read hki
    have hupper : isUpper (PacState.keyAt key s) = true := by
      rw [PacState.keyAt, List.getD_eq_getElem _ _ hki]
      exact isUpper_of_mem_cleanKey (List.getElem_mem hki)
    exact ⟨_, execUPacChar_eq_next.mpr ⟨_, hread, .inl ⟨hl, hroom, by rw [h.pac.CLEN]; omega, _, hkl, hupper, rfl⟩⟩,
      h.pac.letter h.IDX hfit hc hmode hl, rfl, rfl, rfl, rfl⟩
  | false =>
    cases hp : preserve with
    | true =>
      exact ⟨_, execUPacChar_eq_next.mpr ⟨_, hread, .inr (.inl ⟨hl, hpres.trans hp, hroom, rfl⟩)⟩,
        hp ▸ h.pac.kept h.IDX hfit hc hl hp, rfl, rfl, rfl, rfl⟩
    | false =>
      exact ⟨_, execUPacChar_eq_next.mpr ⟨_, hread, .inr (.inr ⟨hl, hpres.trans hp, rfl⟩)⟩,
        hp ▸ h.pac.dropped h.IDX hc hl hp, rfl, rfl, rfl, rfl⟩

theorem AtPacChar.succ (h : AtPacChar u mode preserve pt key k s) (q : PacLoaded u pt key)
    (hcmd : u.CMD = pacWord mode preserve) (more : k + 1 < pt.length) :
    ∃ v, AtPacChar u mode preserve pt key (k + 1) v := by
  obtain ⟨s1, e, pac, phase, status, err, verify⟩ := h.step q hcmd
  have hmore : s.IDX.toNat + 1 < s.PLEN.toNat := by rw [h.IDX, (q.of_sameOperands h.operands).PLEN]; exact more
  have hidx : (s.IDX + 1).toNat = k + 1 := by rw [Word.succ_toNat (hmore.trans s.PLEN.isLt), h.IDX]
  rw [pacLoop, if_pos hmore] at e
  exact ⟨_, { toInRun := h.next h.PHASE rfl e status err verify, PHASE := phase.trans h.PHASE, IDX := hidx, lt := more
              pac := { pac with } }⟩

/-- `U_PAC_CLEAN` starts the loop over the text (R222). -/
theorem PacLoaded.atPacChar_zero (h : PacLoaded s pt key) (hu : s.undisturbed = true) (mode : PacMode)
    (preserve : Bool) : ∃ v, AtPacChar (s.started (pacWord mode preserve)) mode preserve pt key 0 v := by
  have hvalid := h.validated hu mode preserve
  have q := (h.started _).of_sameOperands hvalid.operands
  have hfits : (cleanKey key).length ≤ Config.KEY_MAX := (cleanKey_length_le key).trans q.key_le
  have hrun := hvalid.next (i := .uPacClean) rfl rfl
    (execUPacClean_eq_next.mpr ⟨key, ⟨q.KLEN.symm, q.KEY⟩, .inl ⟨q.letter, hfits, rfl⟩⟩) rfl rfl rfl
  have hclen : (BitVec.ofNat 32 (cleanKey key).length).toNat = (cleanKey key).length := by
    rw [BitVec.toNat_ofNat]
    exact Nat.mod_eq_of_lt (hfits.trans_lt Config.KEY_MAX_lt)
  exact ⟨_, { toInRun := hrun, PHASE := rfl, IDX := rfl, lt := List.length_pos_of_ne_nil h.text
              pac := ⟨(storedAll_writeAll s.CKEY _).values, hclen, rfl, rfl, Memory.holds_nil _, rfl,
                Traced.emit (traced_started s (pacWord mode preserve)) rfl⟩ }⟩

theorem pacRecords_length (ckey l : List Byte) : ∀ k cur, (pacRecords mode preserve ckey k cur l).length = l.length := by
  induction l with
  | nil => intro k cur; rfl
  | cons a l ih => intro k cur; rw [pacRecords]; split <;> simp [ih]

/-- The last character ends the run, with the function of the whole text computed (R131, R220, R227). -/
theorem AtPacChar.ends (h : AtPacChar u mode preserve pt key k s) (q : PacLoaded u pt key)
    (hcmd : u.CMD = pacWord mode preserve) (last : k + 1 = pt.length) :
    ∃ t, EndsAfter (pt.length + 2) u t ∧ t.STATUS = .done ∧ t.ERR = .noError ∧ t.VERIFY_OK = false ∧
      SameOperands u t ∧ PacState mode preserve pt key pt.length t := by
  obtain ⟨s1, e, pac, -, -, err, verify⟩ := h.step q hcmd
  rw [pacLoop, if_neg (by rw [h.IDX, (q.of_sameOperands h.operands).PLEN]; omega)] at e
  obtain ⟨ends, operands, -⟩ := h.last h.PHASE rfl e nofun
  rw [show 2 + k + 1 = pt.length + 2 by omega] at ends
  rw [last] at pac
  exact ⟨_, ends, rfl, err.trans h.noError, verify.trans h.unverified, operands,
    { pac with }⟩

/-- Settles O42. -/
theorem runPacComputesItsFunction : Obligations.RunPacComputesItsFunction := by
  intro s pt key mode preserve hn hu hl text letter text_le key_le
  have h : PacLoaded s pt key := ⟨hl, text, letter, text_le, key_le⟩
  have q := h.started (pacWord mode preserve)
  obtain ⟨k, v, last, hv⟩ := exists_lastIteration (List.length_pos_of_ne_nil text)
    (h.atPacChar_zero hu mode preserve) fun more hv => hv.succ q rfl more
  obtain ⟨t, ends, status, err, verify, operands, pac⟩ := hv.ends q rfl last
  obtain ⟨-, -, cur, olen, out, kslen, trace⟩ := pac
  rw [List.take_length] at olen out trace
  rw [lettersBefore, List.take_length] at cur
  have trace_length : (pacTrace mode preserve pt key).length = pt.length + 1 := by
    rw [pacTrace, List.length_cons, pacRecords_length]
  rw [Traced, trace_length] at trace
  exact ⟨_, t, hStart_of_rest hn _, ends, status, err, verify, kslen, olen, out, cur, trace, { operands with }⟩

end Sys2Proof.Machine
end

section
/-! PROOFS. The moves of a textual request load its operands and start its command (O52). -/

namespace Sys2Proof.Machine

variable {s t : State}

/-! ## Moves of a waiting host, one after the other -/

/-- The host makes these moves in s and comes to t, whatever inputs follow. -/
def Makes (ms : List HostMove) (s t : State) : Prop :=
  ∀ rest, steps ms.length { s with inputs := ms.map .host ++ rest } = .next { t with inputs := rest }

theorem Makes.nil (s : State) : Makes [] s s := fun _ => rfl

theorem Makes.append {ms ms' : List HostMove} {v : State} (h : Makes ms s t) (h' : Makes ms' t v) :
    Makes (ms ++ ms') s v := by
  intro rest
  rw [List.length_append, steps_add, List.map_append, List.append_assoc, h, Res.andThen_next, h']

/-- At rest one move takes one step (R120). -/
theorem Makes.one {m : HostMove} (hn : s.STATUS ≠ .busy)
    (h : ∀ rest, hostMove m { s with inputs := rest } = .next { t with inputs := rest }) : Makes [m] s t := by
  intro rest
  have hstep : step { s with inputs := .host m :: rest } = hostMove m { s with inputs := rest } :=
    step_of_rest (s := { s with inputs := .host m :: rest }) hn rfl
  show Res.andThen (step { s with inputs := .host m :: rest }) (steps 0) = _
  rw [hstep, h, Res.andThen_next, steps]

theorem Makes.steps_eq {ms : List HostMove} (h : Makes ms s t) (hin : s.inputs = ms.map .host) :
    steps ms.length s = .next { t with inputs := [] } := by
  have := h []
  rwa [List.append_nil, ← hin] at this

/-! ## Loads and start -/

/-- The state with a request register written (R121). -/
def State.setReg (s : State) : ReqReg → Word → State
  | .N, v => { s with N := v }
  | .PLEN, v => { s with PLEN := v }
  | .KLEN, v => { s with KLEN := v }
  | .NLEN, v => { s with NLEN := v }

/-- The state with a byte string and its length loaded. -/
def State.withString (s : State) (b : ReqBuf) (r : ReqReg) (l : List Byte) : State :=
  (s.setBuf b.toByteBuf ((s.buf b.toByteBuf).writeAll 0 l)).setReg r (BitVec.ofNat 32 l.length)

theorem makes_writeReg (hn : s.STATUS ≠ .busy) (r : ReqReg) (v : Word) : Makes [.writeReg r v] s (s.setReg r v) :=
  .one hn fun rest => by
    cases r <;> exact if_neg hn

theorem makes_writeElem (hn : s.STATUS ≠ .busy) {b : ReqBuf} {k : Nat} (hk : k < b.toByteBuf.extent) (v : Byte) :
    Makes [.writeElem b k v] s (s.setBuf b.toByteBuf ((s.buf b.toByteBuf).write k v)) :=
  .one hn fun rest => hWriteElem_eq_next.mpr ⟨hn, hk, by cases b <;> rfl⟩

theorem makes_start (hn : s.STATUS ≠ .busy) (w : Word) : Makes [.start w] s (s.started w) :=
  .one hn fun rest => (hostMove_start w _).trans (hStart_of_rest (s := { s with inputs := rest }) hn w)

theorem makes_loadBytes {b : ReqBuf} (l : List Byte) : ∀ {s : State} {k : Nat}, s.STATUS ≠ .busy →
    k + l.length ≤ b.toByteBuf.extent →
    Makes (loadBytes b k l) s (s.setBuf b.toByteBuf ((s.buf b.toByteBuf).writeAll k l)) := by
  induction l with
  | nil =>
    intro s k _ _
    rw [Memory.writeAll, State.setBuf_buf]
    exact .nil s
  | cons v l ih =>
    intro s k hn hfits
    rw [List.length_cons] at hfits
    have first := makes_writeElem hn (b := b) (k := k) (by omega) v
    have others := ih (s := s.setBuf b.toByteBuf ((s.buf b.toByteBuf).write k v)) (k := k + 1)
      (by rw [State.setBuf_any_STATUS]; exact hn) (by omega)
    rw [State.setBuf_setBuf, State.buf_setBuf, if_pos rfl] at others
    exact first.append others

theorem makes_loadString (hn : s.STATUS ≠ .busy) {b : ReqBuf} (r : ReqReg) {l : List Byte}
    (fits : l.length ≤ b.toByteBuf.extent) : Makes (loadString b r l) s (s.withString b r l) :=
  (makes_loadBytes l hn (by omega)).append (makes_writeReg (by rw [State.setBuf_any_STATUS]; exact hn) r _)

theorem toNat_ofNat_length {l : List Byte} {n : Nat} (h : l.length ≤ n) (hn : n < 2 ^ 32) :
    (BitVec.ofNat 32 l.length).toNat = l.length := by
  rw [BitVec.toNat_ofNat]
  exact Nat.mod_eq_of_lt (h.trans_lt hn)

/-! ## Requests -/

/-- The state with text and key loaded. -/
def State.withTextKey (s : State) (pt key : List Byte) : State := (s.withString .PT .PLEN pt).withString .KEY .KLEN key

section Requests

variable {pt key : List Byte} (hn : s.STATUS ≠ .busy) (text_le : pt.length ≤ Config.PT_MAX)
  (key_le : key.length ≤ Config.KEY_MAX)

include text_le key_le

theorem loaded_withTextKey : Loaded (s.withTextKey pt key) pt key where
  PLEN := toNat_ofNat_length text_le Config.PT_MAX_lt
  KLEN := toNat_ofNat_length key_le Config.KEY_MAX_lt
  PT := (storedAll_writeAll s.PT pt).values
  KEY := (storedAll_writeAll s.KEY key).values

include hn

theorem makes_loadTextKey :
    Makes (loadString .PT .PLEN pt ++ loadString .KEY .KLEN key) s (s.withTextKey pt key) :=
  (makes_loadString hn .PLEN text_le).append (makes_loadString (s := s.withString .PT .PLEN pt) hn .KLEN key_le)

/-- RUN_SPC and its pseudo-command (R113, R114). -/
theorem makes_spcMoves (n : Option Word) : ∃ t, Makes (spcMoves pt key n) s t ∧ t.STATUS = .busy ∧
    t.PHASE = P_VALIDATE ∧ Loaded t pt key ∧ t.N = n.getD s.N ∧
    t.CMD = if n.isSome then 0x00000041 else 0x00000001 := by
  have load := makes_loadTextKey hn text_le key_le
  have loaded := loaded_withTextKey (s := s) text_le key_le
  cases n with
  | none => exact ⟨_, load.append (makes_start (s := s.withTextKey pt key) hn _), rfl, rfl, { loaded with }, rfl, rfl⟩
  | some v =>
    have size := makes_writeReg (s := s.withTextKey pt key) hn .N v
    have start := makes_start (s := (s.withTextKey pt key).setReg .N v) hn (spcWord true)
    exact ⟨_, load.append (size.append start), rfl, rfl, { loaded with }, rfl, rfl⟩

/-- RUN_ARX and its pseudo-command (R113, R114). -/
theorem makes_arxMoves {nonce : List Byte} (nonce_le : nonce.length ≤ 12) : ∃ t, Makes (arxMoves pt key nonce) s t ∧
    t.STATUS = .busy ∧ t.PHASE = P_VALIDATE ∧ Loaded t pt key ∧ LoadedNonce t nonce ∧ t.CMD = 0x00000002 := by
  have load := makes_loadTextKey hn text_le key_le
  have loadNonce := makes_loadString (s := s.withTextKey pt key) hn (b := .NONCE) .NLEN nonce_le
  have start := makes_start (s := (s.withTextKey pt key).withString .NONCE .NLEN nonce) hn arxWord
  have loaded := loaded_withTextKey (s := s) text_le key_le
  exact ⟨_, (load.append loadNonce).append start, rfl, rfl, { loaded with },
    ⟨toNat_ofNat_length nonce_le (by decide), (storedAll_writeAll s.NONCE nonce).values⟩, rfl⟩

/-- RUN_PAC (R113). -/
theorem makes_pacMoves (mode : PacMode) (preserve : Bool) : ∃ t, Makes (pacMoves pt key mode preserve) s t ∧
    t.STATUS = .busy ∧ t.PHASE = P_VALIDATE ∧ Loaded t pt key ∧
    t.CMD.toNat = 0x03 + (if mode = .decrypt then 0x10 else 0) + (if preserve = true then 0x20 else 0) := by
  have load := makes_loadTextKey hn text_le key_le
  have loaded := loaded_withTextKey (s := s) text_le key_le
  refine ⟨_, load.append (makes_start (s := s.withTextKey pt key) hn _), rfl, rfl, { loaded with }, ?_⟩
  show (pacWord mode preserve).toNat = _
  cases mode <;> cases preserve <;> decide

end Requests

/-- Settles O52: line by line, and a pseudo-command makes the moves of the command it expands to. -/
theorem requestMovesLoadAndStart : Obligations.RequestMovesLoadAndStart := by
  intro s r pt key hn hin text_le key_le
  refine ⟨fun n hr => ?_, fun nonce hr nonce_le => ?_, fun mode preserve hr => ?_⟩
  · have hmoves : r.moves = spcMoves pt key n := by rcases hr with rfl | rfl <;> rfl
    rw [hmoves] at hin ⊢
    obtain ⟨t, makes, busy, phase, loaded, size, cmd⟩ := makes_spcMoves hn text_le key_le n
    exact ⟨_, makes.steps_eq hin, rfl, busy, phase, { loaded with }, size, cmd⟩
  · have hmoves : r.moves = arxMoves pt key nonce := by rcases hr with rfl | rfl <;> rfl
    rw [hmoves] at hin ⊢
    obtain ⟨t, makes, busy, phase, loaded, loadedNonce, cmd⟩ := makes_arxMoves hn text_le key_le nonce_le
    exact ⟨_, makes.steps_eq hin, rfl, busy, phase, { loaded with }, { loadedNonce with }, cmd⟩
  · subst hr
    obtain ⟨t, makes, busy, phase, loaded, cmd⟩ := makes_pacMoves hn text_le key_le mode preserve
    exact ⟨_, makes.steps_eq hin, rfl, busy, phase, { loaded with }, cmd⟩

end Sys2Proof.Machine
end

section
/-! PROOFS. The front end: a command during a run (O12), the step at rest (O53), and what `U_VALIDATE` answers (O13,
O14). -/

namespace Sys2Proof.Machine

variable {s : State}

/-- Settles O12: a command is the H_START of its word, which a run in progress does not enable. -/
theorem commandsAreRefusedDuringARun : Obligations.CommandsAreRefusedDuringARun := by
  intro s i w hw hb
  rw [exec_of_encode_cmd hw, hStart, if_pos hb]

/-- Settles O53. -/
theorem stepAtRestActsOnTheNextInput : Obligations.StepAtRestActsOnTheNextInput := by
  intro s hn
  refine ⟨fun h => ?_, fun m rest h => ?_, fun rest h => step_of_rest hn h⟩
  · simp [step, hn, restStep, h]
  · rcases h with h | h <;> exact step_of_rest hn h

/-! ## `U_VALIDATE` -/

/-- `U_VALIDATE` of a legal command whose request is admitted and written makes its checks of the operands (R126). -/
theorem execUValidate_of_written (legal : legalCommand s.CMD = true) (admitted : AdmittedRequest s)
    (written : WrittenRequest s) : execUValidate s = .next s.checkOperands :=
  execUValidate_eq_next.mpr (.inr ⟨legal, State.excess_eq_none.mpr admitted,
    State.unwritten_eq_none.mpr ⟨written.text, written.key, written.nonce⟩, rfl⟩)

/-- The stateSize is read as a signed number (R94): it is not positive where it is 0 or its sign bit is set. -/
theorem State.stateSize_nonpos_iff : s.stateSize ≤ 0 ↔ s.N = 0 ∨ s.N.msb = true := by
  rw [State.stateSize, le_iff_eq_or_lt, BitVec.msb_eq_toInt, decide_eq_true_iff, ← BitVec.toInt_inj]
  rfl

theorem State.checkOperands_of_empty (h : s.PLEN = 0 ∨ s.KLEN = 0) : s.checkOperands = s.raise .emptyInput := if_pos h

theorem State.checkOperands_of_noStateSize (text : s.PLEN ≠ 0) (key : s.KLEN ≠ 0) (op : cmdOp s.CMD = 1)
    (h : cmdNv s.CMD = false ∨ s.stateSize ≤ 0) : s.checkOperands = s.raise .invalidParameter := by
  rw [State.checkOperands, if_neg (not_or.mpr ⟨text, key⟩), if_pos op, if_pos h]

/-- Settles O13: with the request admitted and written, `U_VALIDATE` is its checks of the operands, branch by branch. -/
theorem validateChecksInOrderAndDispatches : Obligations.ValidateChecksInOrderAndDispatches := by
  intro s
  refine ⟨fun illegal => execUValidate_eq_next.mpr (.inl ⟨illegal, rfl⟩), fun legal admitted written => ?_⟩
  have checks {t : State} (h : s.checkOperands = t) : exec .uValidate s = .next t :=
    h ▸ execUValidate_of_written legal admitted written
  refine ⟨fun empty => checks (State.checkOperands_of_empty empty), fun text key => ⟨fun op bad => checks ?_,
    fun op nv nonzero nonneg => checks ?_, fun op => checks (State.checkOperands_of_arx text key op),
    fun op => checks (State.checkOperands_of_pac text key op)⟩⟩
  · exact State.checkOperands_of_noStateSize text key op (bad.imp_right State.stateSize_nonpos_iff.mpr)
  · have size : ¬ s.stateSize ≤ 0 :=
      State.stateSize_nonpos_iff.not.mpr (not_or.mpr ⟨nonzero, ne_true_of_eq_false nonneg⟩)
    exact State.checkOperands_of_spc text key op nv (Int.not_le.mp size)

/-- Settles O14: a request that is not admitted exceeds a bound. -/
theorem validateRefusesWhatIsNotAdmitted : Obligations.ValidateRefusesWhatIsNotAdmitted := by
  intro s legal notAdmitted
  obtain ⟨e, he⟩ := Option.ne_none_iff_exists'.mp (mt State.excess_eq_none.mp notAdmitted)
  exact ⟨e, execUValidate_eq_refused.mpr ⟨legal, .inl ⟨e, he, rfl⟩⟩⟩

end Sys2Proof.Machine
end

section
/-! PROOFS. The sequencer: what each micro-operation does to the registers that say where the run stands, said once
(R125, R131, R256); from it the ends of a run (O38), the transition table (O39), and that every run ends (O45). -/

namespace Sys2Proof.Machine

variable {c : BitVec 8} {i : Instr} {s t : State}

/-! ## Where a micro-operation leads -/

/-- How many iterations of the loop at phase code c follow the one that the counter stands at (R125); 0 at a phase that
is no loop. -/
def State.iterationsLeft (s : State) (c : BitVec 8) : Nat :=
  if c = P_KSA then s.N.toNat - (s.IDX.toNat + 1)
  else if c = P_ARX_QR then 79 - s.QN.toNat
  else if c ∈ [P_PRGA, P_ARX_XOR, P_PAC_CHAR] then s.PLEN.toNat - (s.IDX.toNat + 1)
  else 0

/-- The error kinds that a micro-operation may raise, by its code (R250, R126, R231). -/
def raisedKinds : List (BitVec 8 × ErrKind) :=
  [(P_VALIDATE, .illegalCommand), (P_VALIDATE, .emptyInput), (P_VALIDATE, .invalidParameter),
   (P_PAC_CLEAN, .invalidKey)]

/-- Where the micro-operation of code c leads: to its next iteration, to a later phase, or to an end of the run. -/
inductive Sequel (c : BitVec 8) (s t : State) : Prop
  | again (row : (c, c) ∈ transitionTable) (left : s.iterationsLeft c = t.iterationsLeft c + 1)
      (PHASE : t.PHASE = s.PHASE) (STATUS : t.STATUS = s.STATUS)
  | goto (q : BitVec 8) (row : (c, q) ∈ transitionTable) (later : c < q) (left : s.iterationsLeft c = 0)
      (PHASE : t.PHASE = q) (STATUS : t.STATUS = s.STATUS)
  | finish (row : (c, P_DONE) ∈ transitionTable) (left : s.iterationsLeft c = 0)
      (PHASE : t.PHASE = P_DONE) (STATUS : t.STATUS = .done) (ERR : t.ERR = s.ERR)
  | raise (kind : (c, t.ERR) ∈ raisedKinds) (left : s.iterationsLeft c = 0) (PHASE : t.PHASE = P_ERROR)
      (STATUS : t.STATUS = .error)

theorem iterations_succ {v n : Word} (h : v.toNat + 1 < n.toNat) :
    n.toNat - (v.toNat + 1) = n.toNat - ((v + 1).toNat + 1) + 1 := by
  have := n.isLt
  rw [Word.succ_toNat (by omega)]
  omega

theorem Sequel.ksaNext (s : State) {n : Nat} (hn : s.N.toNat = n) (i kb : Byte) :
    Sequel P_KSA s (ksaNext s n i kb) := by
  subst hn
  rw [ksaNext_eq]
  split
  · next more => exact .again (by decide) (iterations_succ more) rfl rfl
  · next last => exact .goto P_PRGA_INIT (by decide) (by decide) (Nat.sub_eq_zero_of_le (Nat.not_lt.mp last)) rfl rfl

theorem Sequel.prgaNext (s : State) (n : Nat) (p : Byte) : Sequel P_PRGA s (prgaNext s n p) := by
  rw [prgaNext_eq]
  split
  · next more => exact .again (by decide) (iterations_succ more) rfl rfl
  · next last => exact .goto P_SPC_VERIFY (by decide) (by decide) (Nat.sub_eq_zero_of_le (Nat.not_lt.mp last)) rfl rfl

theorem Sequel.arxQrNext (s : State) : Sequel P_ARX_QR s (arxQrNext s) := by
  rw [arxQrNext_eq]
  split
  · next more =>
    have qn : (s.QN + 1).toNat = s.QN.toNat + 1 := by
      rw [BitVec.toNat_add]; exact Nat.mod_eq_of_lt (by simp; omega)
    refine .again (by decide) ?_ rfl rfl
    show 79 - s.QN.toNat = 79 - (s.QN + 1).toNat + 1
    omega
  · next last => exact .goto P_ARX_FINAL (by decide) (by decide) (Nat.sub_eq_zero_of_le (Nat.not_lt.mp last)) rfl rfl

theorem Sequel.arxXorNext (s : State) (p z : Byte) : Sequel P_ARX_XOR s (arxXorNext s p z) := by
  rw [arxXorNext_eq]
  split
  · next more => exact .again (by decide) (iterations_succ more) rfl rfl
  · next last => exact .finish (by decide) (Nat.sub_eq_zero_of_le (Nat.not_lt.mp last)) rfl rfl rfl

/-- s1 is the state before the loop over the characters is closed. -/
theorem Sequel.pacLoop {s1 : State} (PLEN : s1.PLEN = s.PLEN) (PHASE : s1.PHASE = s.PHASE)
    (STATUS : s1.STATUS = s.STATUS) (ERR : s1.ERR = s.ERR) : Sequel P_PAC_CHAR s (pacLoop s s1) := by
  unfold Machine.pacLoop
  split
  · next more =>
    refine .again (by decide) ?_ PHASE STATUS
    show s.PLEN.toNat - (s.IDX.toNat + 1) = s1.PLEN.toNat - ((s.IDX + 1).toNat + 1) + 1
    rw [PLEN]; exact iterations_succ more
  · next last => exact .finish (by decide) (Nat.sub_eq_zero_of_le (Nat.not_lt.mp last)) rfl rfl ERR

theorem Sequel.checkOperands (s : State) : Sequel P_VALIDATE s s.checkOperands := by
  rcases s.checkOperands_cases with ⟨-, e⟩ | ⟨-, -, ⟨-, -, e⟩ | ⟨-, -, -, e⟩ | ⟨-, e⟩ | ⟨-, -, e⟩⟩ <;> rw [e]
  · exact .raise (by simp [raisedKinds]) rfl rfl rfl
  · exact .raise (by simp [raisedKinds]) rfl rfl rfl
  · exact .goto P_SPC_INIT (by decide) (by decide) rfl rfl rfl
  · exact .goto P_ARX_INIT (by decide) (by decide) rfl rfl rfl
  · exact .goto P_PAC_CLEAN (by decide) (by decide) rfl rfl rfl

/-- Where each micro-operation leads, whatever phase the state stands at. -/
theorem exec_sequel (hc : encode i = .uop c) (h : exec i s = .next t) : Sequel c s t := by
  cases i with
  | runSpc nv => cases hc
  | runArx => cases hc
  | runPac mode preserve => cases hc
  | uValidate =>
    cases hc
    obtain ⟨-, rfl⟩ | ⟨-, -, -, rfl⟩ := execUValidate_eq_next.mp h
    · exact .raise (by simp [raisedKinds]) rfl rfl rfl
    · exact .checkOperands s
  | uSpcInit =>
    cases hc
    obtain ⟨-, rfl⟩ := execUSpcInit_eq_next.mp h
    exact .goto P_KSA (by decide) (by decide) rfl rfl rfl
  | uKsaStep =>
    cases hc
    obtain ⟨n, i, kb, hn, -, -, -, -, -, rfl⟩ := execUKsaStep_eq_next.mp h
    exact .ksaNext s hn i kb
  | uPrgaInit =>
    cases hc
    obtain rfl := execUPrgaInit_eq_next.mp h
    exact .goto P_PRGA (by decide) (by decide) rfl rfl rfl
  | uPrgaStep =>
    cases hc
    obtain ⟨n, p, -, -, -, -, -, rfl⟩ := execUPrgaStep_eq_next.mp h
    exact .prgaNext s n p
  | uSpcVerify =>
    cases hc
    obtain ⟨out, ks, pt, -, -, -, -, rfl⟩ := execUSpcVerify_eq_next.mp h
    exact .finish (by decide) rfl rfl rfl rfl
  | uArxInit =>
    cases hc
    obtain ⟨key, nonce, -, -, rfl⟩ := execUArxInit_eq_next.mp h
    exact .goto P_ARX_COPY (by decide) (by decide) rfl rfl rfl
  | uArxCopy =>
    cases hc
    obtain rfl := execUArxCopy_eq_next.mp h
    exact .goto P_ARX_QR (by decide) (by decide) rfl rfl rfl
  | uArxQr =>
    cases hc
    obtain rfl := execUArxQr_eq_next.mp h
    exact .arxQrNext s
  | uArxFinal =>
    cases hc
    obtain rfl := execUArxFinal_eq_next.mp h
    exact .goto P_ARX_XOR (by decide) (by decide) rfl rfl rfl
  | uArxXor =>
    cases hc
    obtain ⟨p, z, -, -, -, rfl⟩ := execUArxXor_eq_next.mp h
    exact .arxXorNext s p z
  | uPacClean =>
    cases hc
    obtain ⟨key, -, ⟨-, -, rfl⟩ | ⟨-, pt, -, -, rfl⟩⟩ := execUPacClean_eq_next.mp h
    · exact .goto P_PAC_CHAR (by decide) (by decide) rfl rfl rfl
    · exact .raise (by simp [raisedKinds]) rfl rfl rfl
  | uPacChar =>
    cases hc
    obtain ⟨c, -, ⟨-, -, -, kl, -, -, rfl⟩ | ⟨-, -, -, rfl⟩ | ⟨-, -, rfl⟩⟩ := execUPacChar_eq_next.mp h <;>
      exact .pacLoop rfl rfl rfl rfl

/-- A move of the sequencer leads where the micro-operation of the phase does. -/
theorem sequencerMove_sequel (h : sequencerMove s = .next t) : Sequel s.PHASE s t := by
  obtain ⟨i, hi, e⟩ := sequencerMove_eq_next.mp h
  exact exec_sequel (decodeUop_eq_ok.mp hi) e

/-! ## The ends of a run -/

theorem eq_of_encode_uop {j : Instr} (hi : encode i = .uop c) (hj : decodeUop c = .ok j) : i = j :=
  Except.ok.inj ((decodeUop_eq_ok.mpr hi).symm.trans hj)

/-- The rows of the table that lead to `P_DONE` (R125, R131). -/
theorem mem_of_row_done (hc : encode i = .uop c) (row : (c, P_DONE) ∈ transitionTable) :
    i ∈ [.uSpcVerify, .uArxXor, .uPacChar] := by
  have hrow : c = P_SPC_VERIFY ∨ c = P_ARX_XOR ∨ c = P_PAC_CHAR := by simpa [transitionTable] using row
  rcases hrow with rfl | rfl | rfl
  · simp [eq_of_encode_uop hc (j := .uSpcVerify) rfl]
  · simp [eq_of_encode_uop hc (j := .uArxXor) rfl]
  · simp [eq_of_encode_uop hc (j := .uPacChar) rfl]

theorem cases_of_raisedKind (hc : encode i = .uop c) {k : ErrKind} (kind : (c, k) ∈ raisedKinds) :
    (i = .uValidate ∧ k ∈ [.illegalCommand, .emptyInput, .invalidParameter]) ∨ (i = .uPacClean ∧ k = .invalidKey) := by
  simp only [raisedKinds, List.mem_cons, List.not_mem_nil, or_false, Prod.mk.injEq] at kind
  rcases kind with ⟨rfl, rfl⟩ | ⟨rfl, rfl⟩ | ⟨rfl, rfl⟩ | ⟨rfl, rfl⟩
  · exact .inl ⟨eq_of_encode_uop hc rfl, by simp⟩
  · exact .inl ⟨eq_of_encode_uop hc rfl, by simp⟩
  · exact .inl ⟨eq_of_encode_uop hc rfl, by simp⟩
  · exact .inr ⟨eq_of_encode_uop hc rfl, rfl⟩

/-- Settles O38. -/
theorem onlyTheseMicroOperationsEndARun : Obligations.OnlyTheseMicroOperationsEndARun := by
  intro i c s t hc hb h
  cases exec_sequel hc h with
  | again _ _ _ status => exact .inl (status.trans hb)
  | goto _ _ _ _ _ status => exact .inl (status.trans hb)
  | finish row _ phase status err => exact .inr (.inl ⟨status, phase, err, mem_of_row_done hc row⟩)
  | raise kind _ phase status => exact .inr (.inr ⟨status, phase, cases_of_raisedKind hc kind⟩)

/-! ## The transition table -/

theorem Sequel.mem_transitionTable (q : Sequel s.PHASE s t) : (s.PHASE, t.PHASE) ∈ transitionTable := by
  cases q with
  | again row _ phase _ => rwa [phase]
  | goto _ row _ _ phase _ => rwa [phase]
  | finish row _ phase _ _ => rwa [phase]
  | raise kind _ phase _ =>
    have key : ∀ r ∈ raisedKinds, (r.1, P_ERROR) ∈ transitionTable := by decide
    rw [phase]
    exact key (s.PHASE, t.ERR) kind

/-- No phase of a run lies above the codes of its ends (R99). -/
theorem lt_of_ends {q : BitVec 8} (row : (c, q) ∈ transitionTable) (ends : q ∈ [P_DONE, P_ERROR]) : c < q := by
  have key : ∀ r ∈ transitionTable, r.2 ∈ [P_DONE, P_ERROR] → r.1 < r.2 := by simp [transitionTable]
  exact key (c, q) row ends

/-- The sequencer stays in a phase for as long as iterations of its loop are left, and leaves it for one of a higher
code. -/
theorem Sequel.progress (q : Sequel s.PHASE s t) :
    (t.PHASE = s.PHASE ∧ s.iterationsLeft s.PHASE = t.iterationsLeft t.PHASE + 1) ∨
    (s.PHASE < t.PHASE ∧ s.iterationsLeft s.PHASE = 0) := by
  have row := q.mem_transitionTable
  cases q with
  | again _ left phase _ => exact .inl ⟨phase, phase.symm ▸ left⟩
  | goto _ _ later left phase _ => exact .inr ⟨phase.symm ▸ later, left⟩
  | finish _ left phase _ _ => exact .inr ⟨lt_of_ends row (by simp [phase]), left⟩
  | raise _ left phase _ => exact .inr ⟨lt_of_ends row (by simp [phase]), left⟩

/-- A phase is kept exactly while iterations of its loop are left. -/
theorem Sequel.phase_eq_iff (q : Sequel s.PHASE s t) (hp : s.PHASE = c) : t.PHASE = c ↔ 0 < s.iterationsLeft c := by
  subst hp
  obtain ⟨phase, left⟩ | ⟨later, left⟩ := q.progress
  · exact iff_of_true phase (by omega)
  · exact iff_of_false (fun e => BitVec.lt_irrefl _ (e ▸ later)) (by omega)

/-- `U_PAC_CLEAN` raises `InvalidKey` exactly when the cleaned key is empty (R222, R231). -/
theorem execUPacClean_error_iff (h : execUPacClean s = .next t) : t.PHASE = P_ERROR ↔ t.CLEN = 0 := by
  obtain ⟨key, -, ⟨nonempty, fits, rfl⟩ | ⟨-, pt, -, -, rfl⟩⟩ := execUPacClean_eq_next.mp h
  · refine iff_of_false (show P_PAC_CHAR ≠ P_ERROR by decide) fun e => nonempty ?_
    replace e : BitVec.ofNat 32 (cleanKey key).length = 0 := e
    have zero : (cleanKey key).length % 2 ^ 32 = 0 := by simpa using congrArg BitVec.toNat e
    rw [Nat.mod_eq_of_lt (fits.trans_lt Config.KEY_MAX_lt)] at zero
    exact List.length_eq_zero_iff.mp zero
  · exact iff_of_true rfl rfl

/-- Settles O39: each loop is a use of `Sequel.phase_eq_iff`. -/
theorem sequencerFollowsTheTransitionTable : Obligations.SequencerFollowsTheTransitionTable := by
  intro s t h
  have q := sequencerMove_sequel h
  refine ⟨q.mem_transitionTable, fun hp => (q.phase_eq_iff hp).trans Nat.sub_pos_iff_lt,
    fun hp => (q.phase_eq_iff hp).trans Nat.sub_pos_iff_lt, fun hp => (q.phase_eq_iff hp).trans Nat.sub_pos_iff_lt,
    fun hp => (q.phase_eq_iff hp).trans Nat.sub_pos_iff_lt, fun hp => ?_,
    fun hp => (q.phase_eq_iff hp).trans Nat.sub_pos_iff_lt⟩
  rw [sequencerMove_of_phase (i := .uPacClean) hp rfl] at h
  exact execUPacClean_error_iff h

/-! ## Every run ends -/

/-- In every phase but the first the invariant gives the micro-operation its operands. -/
theorem Inv.exists_exec_selected (h : Inv s) (hi : (s.PHASE, i) ∈ uopTable) (hv : s.PHASE ≠ P_VALIDATE) :
    ∃ t, exec i s = .next t := by
  simp only [uopTable, List.mem_cons, List.not_mem_nil, or_false, Prod.mk.injEq] at hi
  rcases hi with ⟨hp, rfl⟩ | ⟨hp, rfl⟩ | ⟨hp, rfl⟩ | ⟨hp, rfl⟩ | ⟨hp, rfl⟩ | ⟨hp, rfl⟩ | ⟨hp, rfl⟩ | ⟨hp, rfl⟩ |
    ⟨hp, rfl⟩ | ⟨hp, rfl⟩ | ⟨hp, rfl⟩ | ⟨hp, rfl⟩ | ⟨hp, rfl⟩
  · exact absurd hp hv
  · exact h.uSpcInit_next hp
  · exact h.uKsaStep_next hp
  · exact ⟨_, execUPrgaInit_eq_next.mpr rfl⟩
  · exact h.uPrgaStep_next hp
  · exact h.uSpcVerify_next hp
  · exact h.uArxInit_next hp
  · exact ⟨_, execUArxCopy_eq_next.mpr rfl⟩
  · exact ⟨_, execUArxQr_eq_next.mpr rfl⟩
  · exact ⟨_, execUArxFinal_eq_next.mpr rfl⟩
  · exact h.uArxXor_next hp
  · exact h.uPacClean_next hp
  · exact h.uPacChar_next hp

theorem Inv.exists_sequencerMove (h : Inv s) (hb : s.STATUS = .busy) (hv : s.PHASE ≠ P_VALIDATE) :
    ∃ t, Machine.sequencerMove s = .next t := by
  obtain ⟨i, hi⟩ := h.status.busy.mp hb
  rw [Machine.sequencerMove, hi]
  exact h.exists_exec_selected (mem_uopTable_of_decodeUop hi) hv

/-- What `U_VALIDATE` needs of the request not to refuse it (R127, R283). -/
def State.meaningful (s : State) : Prop := legalCommand s.CMD = true → AdmittedRequest s ∧ WrittenRequest s

theorem State.meaningful.exists_execUValidate (h : s.meaningful) : ∃ t, execUValidate s = .next t := by
  cases legal : legalCommand s.CMD with
  | false => exact ⟨_, execUValidate_eq_next.mpr (.inl ⟨legal, rfl⟩)⟩
  | true =>
    obtain ⟨admitted, written⟩ := h legal
    exact ⟨_, execUValidate_of_written legal admitted written⟩

/-- A run in progress that the spec gives a meaning, with nothing from outside to act in it. -/
structure Live (s : State) : Prop where
  inv : Inv s
  busy : s.STATUS = .busy
  undisturbed : s.undisturbed = true
  request : s.PHASE = P_VALIDATE → s.meaningful

theorem Live.exists_sequencerMove (h : Live s) : ∃ t, sequencerMove s = .next t := by
  by_cases hv : s.PHASE = P_VALIDATE
  · rw [sequencerMove_of_phase (i := .uValidate) hv rfl]
    exact (h.request hv).exists_execUValidate
  · exact h.inv.exists_sequencerMove h.busy hv

/-- No phase leads back to `P_VALIDATE` (R125). -/
theorem Sequel.ne_validate (q : Sequel s.PHASE s t) : t.PHASE ≠ P_VALIDATE := by
  have key : ∀ r ∈ transitionTable, r.2 ≠ P_VALIDATE := by simp [transitionTable]
  exact key (s.PHASE, t.PHASE) q.mem_transitionTable

/-- A run ended as R258 says: with DONE and no error kind, or with ERROR and one. -/
def State.ended (s : State) : Prop := (s.STATUS = .done ∧ s.ERR = .noError) ∨ (s.STATUS = .error ∧ s.ERR ≠ .noError)

/-- The run goes on, or it has ended. -/
theorem Live.next (h : Live s) (e : sequencerMove s = .next t) : Live t ∨ t.ended := by
  have inv := h.inv.sequencerMove e
  have q := sequencerMove_sequel e
  obtain ⟨-, -, inputs, -⟩ := fields_of_hostSide (sequencerMove_hostSide e)
  have live (status : t.STATUS = s.STATUS) : Live t :=
    ⟨inv, status.trans h.busy, (undisturbed_of_inputs inputs).trans h.undisturbed, fun hv => absurd hv q.ne_validate⟩
  cases q with
  | again _ _ _ status => exact .inl (live status)
  | goto _ _ _ _ _ status => exact .inl (live status)
  | finish _ _ _ status err => exact .inr (.inl ⟨status, err.trans (h.inv.underway h.busy).noError⟩)
  | raise _ _ _ status => exact .inr (.inr ⟨status, inv.status.kind.mp status⟩)

/-- The run ends: each move takes an iteration of a loop or leads to a phase of a higher code. -/
theorem Live.exists_endsAfter {s : State} (h : Live s) : ∃ k t, EndsAfter k s t ∧ t.ended := by
  obtain ⟨v, hv⟩ := h.exists_sequencerMove
  have first := (step_of_busy h.busy h.undisturbed).trans hv
  obtain live | ended := h.next hv
  · have progress := (sequencerMove_sequel hv).progress
    obtain ⟨k, t, ends, ended⟩ := live.exists_endsAfter
    exact ⟨k + 1, t, endsAfter_succ.mpr ⟨h.busy, v, first, ends⟩, ended⟩
  · have rest : v.STATUS ≠ .busy := by rcases ended with ⟨e, -⟩ | ⟨e, -⟩ <;> rw [e] <;> nofun
    exact ⟨1, v, endsAfter_succ.mpr ⟨h.busy, v, first, endsAfter_zero.mpr ⟨rfl, rest⟩⟩, ended⟩
termination_by (2 ^ 8 - s.PHASE.toNat, s.iterationsLeft s.PHASE)
decreasing_by
  obtain ⟨phase, left⟩ | ⟨later, -⟩ := progress
  · rw [left, phase]
    exact .right _ (Nat.lt_succ_self _)
  · exact .left _ _ (Nat.sub_lt_sub_left s.PHASE.isLt (BitVec.lt_def.mp later))

/-- Settles O45: the premises make the run a live one. -/
theorem everyAdmittedRunEnds : Obligations.EveryAdmittedRunEnds := fun _ inv busy undisturbed request =>
  Live.exists_endsAfter ⟨inv, busy, undisturbed, request⟩

end Sys2Proof.Machine
end

section
/-! PROOFS. From a state of the invariant a step is refused only where the spec gives it no meaning (O5): what refuses a
micro-operation, then what refuses a move of the host. -/

namespace Sys2Proof.Machine

variable {s : State} {r : Refusal}

/-! ## Refusals of a run in progress -/

/-- The bound that `excess` names is exceeded (R127). -/
theorem State.exceeds_of_excess {e : Excess} (h : s.excess = some e) : Exceeds s e := by
  unfold State.excess at h
  split_ifs at h with plaintext key size arxKey arxNonce <;> cases h
  · exact plaintext
  · exact key
  · exact size
  · exact arxKey
  · exact arxNonce

theorem AdmittedRequest.not_exceeds (h : AdmittedRequest s) (e : Excess) : ¬ Exceeds s e := by
  cases e with
  | plaintextLength => exact Nat.not_lt.mpr h.plaintext
  | keyLength => exact Nat.not_lt.mpr h.key
  | stateSize => exact fun ⟨op, nv, exceeds⟩ => Int.not_lt.mpr (h.stateSize op nv) exceeds
  | arxKeyLength => exact fun ⟨op, exceeds⟩ => Nat.not_lt.mpr (h.arxKey op) exceeds
  | arxNonceLength => exact fun ⟨op, exceeds⟩ => Nat.not_lt.mpr (h.arxNonce op) exceeds

/-- The refusals of `U_VALIDATE` on a legal command, each with the case that its reason names (R127, R283). -/
def RefusedRequest (s : State) (r : Refusal) : Prop :=
  legalCommand s.CMD = true ∧
    ((∃ e, r = .notAdmitted e ∧ Exceeds s e) ∨
     (∃ b k, r = .requestUnwritten b ∧ (∀ e, ¬ Exceeds s e) ∧ UnwrittenOperand s b k))

theorem refusedRequest_of_execUValidate (h : execUValidate s = .refused r) : RefusedRequest s r := by
  obtain ⟨legal, ⟨e, excess, rfl⟩ | ⟨noExcess, b, unwritten, rfl⟩⟩ := execUValidate_eq_refused.mp h
  · exact ⟨legal, .inl ⟨e, rfl, State.exceeds_of_excess excess⟩⟩
  · obtain ⟨k, noValue, covered⟩ := State.unwritten_eq_some unwritten
    exact ⟨legal, .inr ⟨b, k, rfl, (State.excess_eq_none.mp noExcess).not_exceeds, noValue, covered⟩⟩

/-- A refusal of the request does not speak of what comes from outside. -/
theorem RefusedRequest.of_withInputs {rest : List Input} (h : RefusedRequest { s with inputs := rest } r) :
    RefusedRequest s r := by
  obtain ⟨legal, excess | ⟨b, k, reason, within, unwritten⟩⟩ := h
  · exact ⟨legal, .inl excess⟩
  · exact ⟨legal, .inr ⟨b, k, reason, within, { unwritten with }⟩⟩

/-- In a state of the invariant only `U_VALIDATE` refuses: every later phase finds its request admitted and written. -/
theorem Inv.refusedRequest_of_sequencerMove (h : Inv s) (hb : s.STATUS = .busy)
    (e : Machine.sequencerMove s = .refused r) : s.PHASE = P_VALIDATE ∧ RefusedRequest s r := by
  have validate : s.PHASE = P_VALIDATE := by
    by_contra hv
    obtain ⟨t, ht⟩ := h.exists_sequencerMove hb hv
    rw [ht] at e
    cases e
  rw [sequencerMove_of_phase (i := .uValidate) validate rfl] at e
  exact ⟨validate, refusedRequest_of_execUValidate e⟩

theorem step_of_busy_pass {rest : List Input} (hb : s.STATUS = .busy) (h : s.inputs = .pass :: rest) :
    step s = sequencerMove { s with inputs := rest } := by
  simp [step, hb, busyStep, h, Input.preempts]

/-- A host that does not wait may read `STATUS` and `ERR` during a run, and is refused any other move (R124, R284). -/
theorem refused_of_hostMove_of_busy {m : HostMove} (hb : s.STATUS = .busy) (e : hostMove m s = .refused r) :
    r = .hostMoveWhileBusy ∧ m ≠ .read (.reg .STATUS) ∧ m ≠ .read (.reg .ERR) := by
  have notAnyTime {x : ReadReg} (hx : (ReadTarget.reg x).anyTime = true) : m ≠ .read (.reg x) := by
    rintro rfl
    rw [hostMove, hRead_of_value (.inr hx) rfl] at e
    cases e
  have status := notAnyTime (x := .STATUS) rfl
  have err := notAnyTime (x := .ERR) rfl
  rw [hostMove_of_busy hb status err] at e
  cases e
  exact ⟨rfl, status, err⟩

/-- What a host that does not wait is refused during a run (R124, R284). -/
def RefusedAccess (s : State) (r : Refusal) : Prop :=
  r = .hostMoveWhileBusy ∧ ∃ m rest, s.inputs = .hostNow m :: rest ∧ m ≠ .read (.reg .STATUS) ∧ m ≠ .read (.reg .ERR)

/-- During a run the sequencer is refused its move, or the host its access; a reset is not refused. -/
theorem Inv.refused_of_busy (h : Inv s) (hb : s.STATUS = .busy) (e : step s = .refused r) :
    (s.PHASE = P_VALIDATE ∧ RefusedRequest s r) ∨ RefusedAccess s r := by
  rcases hin : s.inputs with _ | ⟨_ | m | m | _, rest⟩
  · rw [step_of_busy hb (by simp [State.undisturbed, hin])] at e
    exact .inl (h.refusedRequest_of_sequencerMove hb e)
  · rw [step_of_busy_pass hb hin] at e
    obtain ⟨validate, request⟩ := (h.withInputs rest).refusedRequest_of_sequencerMove hb e
    exact .inl ⟨validate, request.of_withInputs⟩
  · rw [step_of_busy hb (by simp [State.undisturbed, hin])] at e
    exact .inl (h.refusedRequest_of_sequencerMove hb e)
  · rw [step_of_busy_hostNow hb hin] at e
    obtain ⟨reason, status, err⟩ := refused_of_hostMove_of_busy (s := { s with inputs := rest }) hb e
    exact .inr ⟨reason, m, rest, hin, status, err⟩
  · rw [step_of_reset hin] at e
    cases e

/-! ## Refusals at rest -/

/-- Only a request element may hold no value without a fault (R53, R283). -/
theorem readByte_eq_refused {b : ByteBuf} {k : Nat} (h : s.readByte b k = .refused r) :
    r = .requestUnwritten b ∧ b ∈ [ByteBuf.PT, .KEY, .NONCE] ∧ (s.buf b).read k = none := by
  unfold State.readByte at h
  split at h
  · cases h
  · next none => cases b <;> cases h <;> exact ⟨rfl, by simp, none⟩

/-- What a host at rest is refused, and why (R51, R121, R123, R283). -/
def RefusedMove (s : State) (m : HostMove) (r : Refusal) : Prop :=
  (r = .noSuchHostMove ∧ NoSuchMove s m) ∨
  (∃ b k, r = .requestUnwritten b ∧ m = .read (.elem b k) ∧ b ∈ [ByteBuf.PT, .KEY, .NONCE] ∧
    ¬ NotReadable s k b ∧ (s.buf b).read k = none)

theorem refusedMove_of_hostValue {target : ReadTarget} (h : s.hostValue target = .refused r) :
    RefusedMove s (.read target) r := by
  cases target with
  | reg x => cases h
  | elem b k =>
    by_cases readable : NotReadable s k b
    · rw [hostValue_of_notReadable readable] at h
      cases h
      exact .inl ⟨rfl, readable⟩
    · rw [hostValue_of_readable readable, Res.andThen_eq_refused] at h
      obtain h | ⟨v, -, h⟩ := h
      · obtain ⟨reason, request, none⟩ := readByte_eq_refused h
        exact .inr ⟨b, k, reason, rfl, request, readable, none⟩
      · cases h
  | record k =>
    simp only [State.hostValue] at h
    split at h
    · split at h <;> cases h
    · next last => cases h; exact .inl ⟨rfl, Nat.not_lt.mp last⟩

theorem refusedMove_of_hostMove {m : HostMove} (hn : s.STATUS ≠ .busy) (e : hostMove m s = .refused r) :
    RefusedMove s m r := by
  cases m with
  | writeReg x v =>
    simp only [hostMove, hWriteReg, if_neg hn] at e
    cases x <;> cases e
  | writeElem b k v =>
    rw [hostMove, hWriteElem, if_neg hn] at e
    split at e
    · cases e
    · next outside =>
      cases e
      cases b <;> exact .inl ⟨rfl, Nat.not_lt.mp outside⟩
  | start w =>
    rw [hostMove_start, hStart_of_rest hn] at e
    cases e
  | read target =>
    rw [hostMove, hRead, if_neg fun hb => hn hb.1, Res.andThen_eq_refused] at e
    obtain e | ⟨v, -, e⟩ := e
    · exact refusedMove_of_hostValue e
    · cases e

/-- At rest only a move of the host is refused. -/
theorem refused_of_rest (hn : s.STATUS ≠ .busy) (e : step s = .refused r) :
    ∃ m rest, (s.inputs = .host m :: rest ∨ s.inputs = .hostNow m :: rest) ∧ RefusedMove s m r := by
  have move {m : HostMove} {rest : List Input} (e : hostMove m { s with inputs := rest } = .refused r) :
      RefusedMove s m r := refusedMove_of_hostMove (s := { s with inputs := rest }) hn e
  rcases hin : s.inputs with _ | ⟨_ | m | m | _, rest⟩
  · simp [step, hn, restStep, hin] at e
  all_goals rw [step_of_rest hn hin] at e
  · cases e
  · exact ⟨m, rest, .inl rfl, move e⟩
  · exact ⟨m, rest, .inr rfl, move e⟩
  · cases e

/-- Settles O5: a run in progress, then rest. -/
theorem refusalsAreTheSpecsOwn : Obligations.RefusalsAreTheSpecsOwn := by
  intro s r h e
  by_cases hb : s.STATUS = .busy
  · obtain ⟨validate, request⟩ | access := h.refused_of_busy hb e
    · exact .inl ⟨hb, validate, request⟩
    · exact .inr (.inl ⟨hb, access⟩)
  · exact .inr (.inr ⟨hb, refused_of_rest hb e⟩)

end Sys2Proof.Machine
end

section
/-! PROOFS. The SPC engine, micro-operation by micro-operation: what each writes and what it leaves (O15 to O19); that
the generator does not read the text (O22); and that its keystream lies below the stateSize (O48). -/

namespace Sys2Proof.Machine

variable {s : State}

/-! ## Closing a loop over `IDX` -/

/-- A loop of n iterations over `IDX` is closed: the next iteration, or phase q after the last one (R152, R154). -/
def State.closeLoop (b : State) (n : Nat) (q : BitVec 8) : State :=
  { b with
    IDX := if b.IDX.toNat + 1 < n then b.IDX + 1 else b.IDX
    PHASE := if b.IDX.toNat + 1 < n then b.PHASE else q }

theorem ksaNext_eq_closeLoop (s : State) (n : Nat) (i kb : Byte) :
    ksaNext s n i kb = (ksaBody s n i kb).closeLoop n P_PRGA_INIT := by
  rw [ksaNext_eq, State.closeLoop, show (ksaBody s n i kb).IDX = s.IDX from rfl]
  split <;> rfl

theorem prgaNext_eq_closeLoop (s : State) (n : Nat) (p : Byte) :
    prgaNext s n p = (prgaBody s n p).closeLoop s.PLEN.toNat P_SPC_VERIFY := by
  rw [prgaNext_eq, State.closeLoop, show (prgaBody s n p).IDX = s.IDX from rfl]
  split <;> rfl

theorem State.closeLoop_of_more {n : Nat} (q : BitVec 8) (hn : n < 2 ^ 32) (more : s.IDX.toNat + 1 < n) :
    (s.closeLoop n q).IDX.toNat = s.IDX.toNat + 1 ∧ (s.closeLoop n q).PHASE = s.PHASE := by
  rw [State.closeLoop, if_pos more, if_pos more]
  exact ⟨Word.succ_toNat (more.trans hn), rfl⟩

theorem State.closeLoop_of_last {n : Nat} (q : BitVec 8) (last : s.IDX.toNat + 1 = n) :
    (s.closeLoop n q).IDX = s.IDX ∧ (s.closeLoop n q).PHASE = q := by
  rw [State.closeLoop, if_neg last.not_lt, if_neg last.not_lt]
  exact ⟨rfl, rfl⟩

/-! ## The register file -/

theorem getS_identityBelow (S : Vector Byte 256) (n : Nat) (x : Byte) :
    getS (identityBelow S n) x = if x.toNat < n then x else getS S x := by
  simp [getS, identityBelow]

/-- The two writes of a swap (R11) give one result in either order. -/
theorem getS_swap_first (S : Vector Byte 256) (a b x : Byte) :
    getS (swap S a b) x = if x = a then getS S b else if x = b then getS S a else getS S x := by
  rw [getS_swap]
  by_cases ha : x = a <;> by_cases hb : x = b
  · rw [if_pos hb, if_pos ha, ← ha, ← hb]
  · rw [if_neg hb, if_pos ha, if_pos ha]
  · rw [if_pos hb, if_neg ha, if_pos hb]
  · rw [if_neg hb, if_neg ha, if_neg ha, if_neg hb]

/-! ## The frame -/

/-- What the four micro-operations before the in-run check leave (R151 to R154). -/
structure SpcFrame (s t : State) : Prop where
  QN : t.QN = s.QN
  operands : SameOperands s t
  arx : SameArx s t
  pac : SamePac s t
  run : SameRun s t

/-- It is left by every write to SPC working state, loop counter, phase, keystream, output and trace. -/
theorem SpcFrame.of_writes {S : Vector Byte 256} {I J : Byte} {IDX OLEN KSLEN TLEN : Word} {PHASE : BitVec 8}
    {KS OUT : Memory Byte} {TRACE : Memory TraceRecord} {draws : Nat} :
    SpcFrame s { s with S, I, J, IDX, OLEN, KSLEN, TLEN, PHASE, KS, OUT, TRACE, draws } where
  QN := rfl
  operands := ⟨rfl, rfl, rfl, rfl, rfl, rfl, rfl⟩
  arx := ⟨rfl, rfl, rfl⟩
  pac := ⟨rfl, rfl, rfl⟩
  run := ⟨rfl, rfl, rfl, rfl, rfl, rfl⟩

/-! ## The micro-operations -/

/-- Settles O15. -/
theorem spcInitWritesTheIdentity : Obligations.SpcInitWritesTheIdentity := fun s hn =>
  have ⟨QN, operands, arx, pac, run⟩ := SpcFrame.of_writes
  ⟨_, execUSpcInit_eq_next.mpr ⟨hn, rfl⟩, getS_identityBelow s.S s.N.toNat, rfl, rfl, rfl, rfl, QN, operands, arx, pac,
    ⟨rfl, rfl, rfl, rfl, rfl⟩, ⟨rfl, rfl⟩, run⟩

/-- Settles O16: the iteration's body, then the loop over N. -/
theorem ksaStepAddsSwapsAndTraces : Obligations.KsaStepAddsSwapsAndTraces := by
  intro s n i kb hN h1 h256 idx hi hklen hkb
  have klen : s.KLEN.toNat ≠ 0 := fun e => hklen (BitVec.eq_of_toNat_eq e)
  have e : exec .uKsaStep s = .next ((ksaBody s n i kb).closeLoop n P_PRGA_INIT) :=
    execUKsaStep_eq_next.mpr ⟨n, i, kb, hN, h1, h256, idx, klen, hkb, (ksaNext_eq_closeLoop s n i kb).symm⟩
  have frame : SpcFrame s ((ksaBody s n i kb).closeLoop n P_PRGA_INIT) := .of_writes
  rw [← idx]
  exact ⟨_, ksaIndex s n i kb, e, modIndex_toNat h1 h256, rfl, getS_swap_first s.S i _, emitted_of_write _ _ rfl rfl,
    State.closeLoop_of_more (s := ksaBody s n i kb) _ (by omega), State.closeLoop_of_last (s := ksaBody s n i kb) _,
    rfl, frame.QN, frame.operands, frame.arx, frame.pac, ⟨rfl, rfl, rfl, rfl, rfl⟩, frame.run⟩

/-- Settles O17. -/
theorem prgaInitClearsTheIndices : Obligations.PrgaInitClearsTheIndices := fun _ =>
  have ⟨QN, operands, arx, pac, run⟩ := SpcFrame.of_writes
  ⟨_, execUPrgaInit_eq_next.mpr rfl, rfl, rfl, rfl, rfl, rfl, QN, operands, arx, pac, ⟨rfl, rfl, rfl, rfl, rfl⟩,
    ⟨rfl, rfl⟩, run⟩

/-- Settles O18: the body for one byte, then the loop over PLEN. -/
theorem prgaStepEncryptsOneByte : Obligations.PrgaStepEncryptsOneByte := by
  intro s n p hN h1 h256 hlt hfits hp
  have e : exec .uPrgaStep s = .next ((prgaBody s n p).closeLoop s.PLEN.toNat P_SPC_VERIFY) :=
    execUPrgaStep_eq_next.mpr ⟨n, p, hN, h1, h256, hp, hlt.trans_le hfits, (prgaNext_eq_closeLoop s n p).symm⟩
  have frame : SpcFrame s ((prgaBody s n p).closeLoop s.PLEN.toNat P_SPC_VERIFY) := .of_writes
  have count : (s.IDX + 1).toNat = s.IDX.toNat + 1 := Word.succ_toNat (by have := s.PLEN.isLt; omega)
  exact ⟨_, prgaI s n, prgaJ s n, prgaT s n, prgaZ s n, e, modIndex_toNat h1 h256, rfl, modIndex_toNat h1 h256, rfl,
    getS_swap_first s.S _ _, modIndex_toNat h1 h256, rfl, stored_write s.KS _ _, stored_write s.OUT _ _, count, count,
    emitted_of_write _ _ rfl rfl, State.closeLoop_of_more (s := prgaBody s n p) _ s.PLEN.isLt,
    State.closeLoop_of_last (s := prgaBody s n p) _, rfl, frame.QN, frame.operands, frame.arx, frame.pac, frame.run⟩

theorem getElem?_xorBytes {x y : List Byte} {k : Nat} (hx : k < x.length) (hy : k < y.length) :
    (xorBytes x y)[k]? = some (x.getD k 0 ^^^ y.getD k 0) := by
  simp [xorBytes, hx, hy]

/-- Settles O19: the recovered bytes are output xor keystream. -/
theorem spcVerifyRecoversAndFinishes : Obligations.SpcVerifyRecoversAndFinishes := by
  intro s out ks pt hfits lout lks lpt hout hks hpt
  have e : exec .uSpcVerify s = .next (verifyNext s out ks pt) :=
    execUSpcVerify_eq_next.mpr ⟨out, ks, pt, ⟨lout, hout⟩, ⟨lks, hks⟩, ⟨lpt, hpt⟩, .inr hfits, rfl⟩
  have recovered (k : Nat) (hk : k < s.PLEN.toNat) :
      (xorBytes out ks)[k]? = some (out.getD k 0 ^^^ ks.getD k 0) := getElem?_xorBytes (lout ▸ hk) (lks ▸ hk)
  exact ⟨_, xorBytes out ks, verifyOk (xorBytes out ks) pt, e, (xorBytes_length (lks.trans lout.symm)).trans lout,
    recovered, storedAll_writeAll s.REC _, decide_eq_true_iff, rfl, emitted_of_write _ _ rfl rfl, rfl, rfl, rfl, rfl,
    rfl, rfl, rfl, rfl, rfl, rfl, rfl, rfl, ⟨rfl, rfl, rfl, rfl, rfl, rfl, rfl⟩, ⟨rfl, rfl, rfl⟩, ⟨rfl, rfl, rfl⟩,
    ⟨rfl, rfl, rfl⟩⟩

/-! ## The generator and the text (R158) -/

/-- Settles O22: what a step computes for the generator is a function of N, `S`, `I` and `J`. -/
theorem keystreamDoesNotDependOnTheText : Obligations.KeystreamDoesNotDependOnTheText := by
  intro s s' t t' hN idx spc e e'
  obtain ⟨n, p, rfl, h1, h256, -, -, rfl⟩ := execUPrgaStep_eq_next.mp e
  obtain ⟨n', p', rfl, -, -, -, -, rfl⟩ := execUPrgaStep_eq_next.mp e'
  rw [hN, prgaNext_eq_closeLoop, prgaNext_eq_closeLoop]
  obtain ⟨hI, hJ, -, hZ, -⟩ := generatorAlike h1 h256 (congrArg (sPrefix · _) spc.S) spc.I spc.J idx
  have hS : prgaS s' s.N.toNat = prgaS s s.N.toNat := by rw [prgaS, hI, hJ, spc.S, prgaS]
  have hKS : (s'.KS.write s'.IDX.toNat (prgaZ s' s.N.toNat)).read s.IDX.toNat =
      (s.KS.write s.IDX.toNat (prgaZ s s.N.toNat)).read s.IDX.toNat := by
    rw [idx, Memory.read_write_same, Memory.read_write_same, hZ]
  exact ⟨⟨hS, hI, hJ⟩, hKS⟩

/-! ## The range of the keystream (R161)

Every element of `S` lies below N: so do the identity and what swaps make of it, and a keystream byte is an element. -/

/-- Every byte of the list is below n. -/
def BytesBelow (n : Nat) (l : List Byte) : Prop := ∀ x ∈ l, x.toNat < n

theorem BytesBelow.getD {n : Nat} {l : List Byte} (h : BytesBelow n l) (pos : 0 < n) (i : Nat) :
    (l.getD i 0).toNat < n := by
  rw [List.getD_eq_getElem?_getD]
  cases hx : l[i]? with
  | none => exact pos
  | some x => exact h x (List.mem_of_getElem? hx)

theorem BytesBelow.set {n : Nat} {l : List Byte} (h : BytesBelow n l) (i : Nat) {v : Byte} (hv : v.toNat < n) :
    BytesBelow n (l.set i v) := fun x hx =>
  (List.mem_or_eq_of_mem_set hx).elim (h x) fun e => e ▸ hv

theorem BytesBelow.swapList {n : Nat} {l : List Byte} (h : BytesBelow n l) (pos : 0 < n) (a b : Nat) :
    BytesBelow n (swapList l a b) :=
  (h.set a (h.getD pos b)).set b (h.getD pos a)

theorem bytesBelow_identity (n : Nat) : BytesBelow n ((List.range n).map (BitVec.ofNat 8)) := by
  intro x hx
  obtain ⟨m, hm, rfl⟩ := List.mem_map.mp hx
  rw [BitVec.toNat_ofNat]
  exact (Nat.mod_le m _).trans_lt (List.mem_range.mp hm)

theorem bytesBelow_ksaAfter (key : List Byte) {n : Nat} (pos : 0 < n) (i : Nat) :
    BytesBelow n (ksaAfter key n i).1 := by
  induction i with
  | zero => exact bytesBelow_identity n
  | succ i ih => exact ih.swapList pos _ _

theorem bytesBelow_prgaAfter {S0 : List Byte} {n : Nat} (h : BytesBelow n S0) (pos : 0 < n) (k : Nat) :
    BytesBelow n (prgaAfter S0 n k).1 := by
  induction k with
  | zero => exact h
  | succ k ih => exact ih.swapList pos _ _

theorem bytesBelow_spcKeystream (key : List Byte) {n : Nat} (pos : 0 < n) (len : Nat) :
    BytesBelow n (spcKeystream key n len) := by
  intro z hz
  obtain ⟨k, -, rfl⟩ := List.mem_map.mp hz
  exact (bytesBelow_prgaAfter (bytesBelow_ksaAfter key pos n) pos (k + 1)).getD pos _

/-- A view of a byte that xor with any keystream byte leaves as it is passes from text to output. -/
theorem map_xorBytes_eq {α : Type} {f : Byte → α} {pt ks : List Byte} (hlen : ks.length = pt.length)
    (h : ∀ p, ∀ z ∈ ks, f (p ^^^ z) = f p) : (xorBytes pt ks).map f = pt.map f := by
  refine List.ext_getElem (by simp [xorBytes_length hlen]) fun k _ hk => ?_
  have hz : k < ks.length := by simpa [hlen] using hk
  simp only [xorBytes, List.getElem_map, List.getElem_zipWith]
  exact h _ _ (List.getElem_mem hz)

/-- Settles O48: for N = 1 every keystream byte is 0, for N ≤ 128 its bit 7 is. -/
theorem spcKeystreamLiesBelowStateSize : Obligations.SpcKeystreamLiesBelowStateSize := by
  intro pt key n pos _
  have below := bytesBelow_spcKeystream key pos pt.length
  have hlen := spcKeystream_length key n pt.length
  refine ⟨below, fun one => ?_, fun half k => ?_⟩
  · have zero (p z : Byte) (hz : z ∈ spcKeystream key n pt.length) : p ^^^ z = p := by
      have h0 : z = 0 := BitVec.eq_of_toNat_eq (Nat.lt_one_iff.mp (one ▸ below z hz))
      rw [h0]; exact BitVec.xor_zero
    rw [spcOutput, ← List.map_id (xorBytes _ _), map_xorBytes_eq (f := id) hlen zero, List.map_id]
  · have bit7 (p z : Byte) (hz : z ∈ spcKeystream key n pt.length) : (p ^^^ z).msb = p.msb := by
      have hz7 : z.msb = false := BitVec.msb_eq_false_iff_two_mul_lt.mpr (by have := below z hz; omega)
      rw [BitVec.msb_xor, hz7, Bool.xor_false]
    rw [← List.getElem?_map, ← List.getElem?_map]
    exact congrArg (·[k]?) (map_xorBytes_eq hlen bit7)

end Sys2Proof.Machine
end

section
/-! PROOFS. The ARX engine, micro-operation by micro-operation: what each writes and what it leaves (O23 to O27); and
that two quarter-rounds of one pass commute (O28). -/

namespace Sys2Proof.Machine

variable {s : State}

/-! ## Words (R9, R10) -/

theorem toNat_append_eq_mul_add {v w : Nat} (x : BitVec v) (y : BitVec w) :
    (x ++ y).toNat = x.toNat * 2 ^ w + y.toNat := by
  rw [BitVec.toNat_append, Nat.shiftLeft_eq, Nat.mul_comm, Nat.two_pow_add_eq_or_of_lt y.isLt]

theorem le32_toNat (b0 b1 b2 b3 : Byte) :
    (le32 b0 b1 b2 b3).toNat = b0.toNat + 2 ^ 8 * b1.toNat + 2 ^ 16 * b2.toNat + 2 ^ 24 * b3.toNat := by
  rw [le32, toNat_append_eq_mul_add, toNat_append_eq_mul_add, toNat_append_eq_mul_add]
  omega

/-- The two parts that `rotl32` adds have no bit in common. -/
theorem rotl32_eq_rotateLeft (v : Word) {r : Nat} (hr : r < 32) : rotl32 v r = v.rotateLeft r := by
  have disjoint : v <<< r &&& v >>> (32 - r) = 0#32 := by
    ext i hi
    by_cases low : i < r
    · simp [low]
    · simp [BitVec.getLsbD_of_ge v (32 - r + i) (by omega)]
  rw [rotl32, BitVec.add_eq_or_of_and_eq_zero _ _ disjoint, BitVec.rotateLeft_def, Nat.mod_eq_of_lt hr]

/-! ## The initial matrix (R77, R181) -/

/-- Of a string K that a buffer holds up to n and that is zero above, what is read below `cap` pads to K. -/
theorem State.exists_readBytes_padded {b : ByteBuf} {n cap : Nat} {K : Nat → Byte}
    (h : ∀ x, x < cap → if x < n then (s.buf b).read x = some (K x) else K x = 0) :
    ∃ l, s.readBytes b 0 (min n cap) = .next l ∧ ∀ x, x < cap → padded l x = K x := by
  refine ⟨(List.range (min n cap)).map K, State.readBytes_eq_next.mpr ⟨by simp, fun i hi => ?_⟩, fun x hx => ?_⟩
  · have hK := h i (by omega)
    rw [if_pos (by omega)] at hK
    rw [Nat.zero_add, hK, List.getElem?_map, List.getElem?_range hi, Option.map_some]
  · have hK := h x hx
    split at hK
    · next lt => simp [padded, lt, hx]
    · next ge => simp [padded, ge, hK]

/-- Word m of the padded string is the little-endian value of its bytes 4m to 4m + 3 (R63). -/
theorem paddedWord_toNat {l : List Byte} {K : Nat → Byte} {n m : Nat} (h : ∀ x, x < n → padded l x = K x)
    (hm : 4 * m + 3 < n) : (paddedWord l m).toNat = (K (4 * m)).toNat + 2 ^ 8 * (K (4 * m + 1)).toNat +
      2 ^ 16 * (K (4 * m + 2)).toNat + 2 ^ 24 * (K (4 * m + 3)).toNat := by
  rw [paddedWord, le32_toNat, h _ (by omega), h _ (by omega), h _ (by omega), h _ hm]

theorem initialMatrix_key (key nonce : List Byte) {m : Nat} (h : m < 8) :
    (initialMatrix key nonce)[4 + m]'(by omega) = paddedWord key m := by
  interval_cases m <;> rfl

theorem initialMatrix_nonce (key nonce : List Byte) {m : Nat} (h : m < 3) :
    (initialMatrix key nonce)[13 + m]'(by omega) = paddedWord nonce m := by
  interval_cases m <;> rfl

/-! ## The quarter-round on the matrix (R184, R185, R187) -/

/-- The values of `qrSteps` meet the equations of the rule. -/
theorem quarterRoundSteps_qrSteps (a b c d : Word) : QuarterRoundSteps a b c d (qrSteps a b c d) where
  s0 := rfl
  s1 := rfl
  s2 := rotl32_eq_rotateLeft _ (by decide)
  s3 := rfl
  s4 := rfl
  s5 := rotl32_eq_rotateLeft _ (by decide)
  s6 := rfl
  s7 := rfl
  s8 := rotl32_eq_rotateLeft _ (by decide)
  s9 := rfl
  s10 := rfl
  s11 := rotl32_eq_rotateLeft _ (by decide)

/-- The matrix indices of a group, in the order of the quarter-round. -/
def Group.indices (g : Group) : List (Fin 16) := [g.a, g.b, g.c, g.d]

theorem Group.notMem_indices_iff {g : Group} {x : Fin 16} :
    x ∉ g.indices ↔ x ≠ g.a ∧ x ≠ g.b ∧ x ≠ g.c ∧ x ≠ g.d := by
  simp [Group.indices]

theorem group_indices_nodup (x : Fin 8) : (group x).indices.Nodup := by revert x; decide

/-- The groups of one pass share no word (R188). -/
theorem group_indices_disjoint : ∀ x y : Fin 8, x.val / 4 = y.val / 4 → x ≠ y →
    ∀ z ∈ (group x).indices, z ∉ (group y).indices := by decide

/-- The table of the rule lists the groups by slot. -/
theorem groupTable_eq : groupTable = (List.finRange 8).map fun x =>
    (x.val, (group x).a, (group x).b, (group x).c, (group x).d) := by decide

theorem group_of_mem_groupTable {q : Nat} {a b c d : Fin 16} (h : (q % 8, a, b, c, d) ∈ groupTable) :
    group (slotOf q) = ⟨a, b, c, d⟩ := by
  rw [groupTable_eq] at h
  obtain ⟨x, -, e⟩ := List.mem_map.mp h
  simp only [Prod.mk.injEq] at e
  obtain ⟨hx, rfl, rfl, rfl, rfl⟩ := e
  rw [show slotOf q = x from Fin.ext hx.symm]

/-- A word after a quarter-round: one of the four values written, or the word as it was. -/
theorem quarterRoundAt_getElem (M : Vector Word 16) (g : Group) (x : Fin 16) :
    (quarterRoundAt M g)[x] =
      if x = g.d then (qrSteps M[g.a] M[g.b] M[g.c] M[g.d])[8]
      else if x = g.c then (qrSteps M[g.a] M[g.b] M[g.c] M[g.d])[9]
      else if x = g.b then (qrSteps M[g.a] M[g.b] M[g.c] M[g.d])[11]
      else if x = g.a then (qrSteps M[g.a] M[g.b] M[g.c] M[g.d])[6] else M[x] := by
  simp only [quarterRoundAt, Fin.getElem_fin, Vector.getElem_set, Fin.val_inj, eq_comm (b := x)]

/-- The four indices are distinct, so each of the four values written stands. -/
theorem quarterRoundAt_getElem_group (M : Vector Word 16) {g : Group} (nodup : g.indices.Nodup) :
    (quarterRoundAt M g)[g.a] = (qrSteps M[g.a] M[g.b] M[g.c] M[g.d])[6] ∧
      (quarterRoundAt M g)[g.b] = (qrSteps M[g.a] M[g.b] M[g.c] M[g.d])[11] ∧
      (quarterRoundAt M g)[g.c] = (qrSteps M[g.a] M[g.b] M[g.c] M[g.d])[9] ∧
      (quarterRoundAt M g)[g.d] = (qrSteps M[g.a] M[g.b] M[g.c] M[g.d])[8] := by
  obtain ⟨⟨ab, ac, ad⟩, ⟨bc, bd⟩, cd⟩ :
      (g.a ≠ g.b ∧ g.a ≠ g.c ∧ g.a ≠ g.d) ∧ (g.b ≠ g.c ∧ g.b ≠ g.d) ∧ g.c ≠ g.d := by
    simpa [Group.indices] using nodup
  refine ⟨?_, ?_, ?_, ?_⟩ <;> rw [quarterRoundAt_getElem]
  · rw [if_neg ad, if_neg ac, if_neg ab, if_pos rfl]
  · rw [if_neg bd, if_neg bc, if_pos rfl]
  · rw [if_neg cd, if_pos rfl]
  · rw [if_pos rfl]

theorem quarterRoundAt_getElem_of_notMem (M : Vector Word 16) {g : Group} {x : Fin 16} (h : x ∉ g.indices) :
    (quarterRoundAt M g)[x] = M[x] := by
  obtain ⟨ha, hb, hc, hd⟩ := Group.notMem_indices_iff.mp h
  rw [quarterRoundAt_getElem, if_neg hd, if_neg hc, if_neg hb, if_neg ha]

/-- A word after a quarter-round depends on the words of the group and on itself only. -/
theorem quarterRoundAt_congr {M M' : Vector Word 16} {g : Group} {x : Fin 16}
    (hg : ∀ y ∈ g.indices, M[y] = M'[y]) (hx : M[x] = M'[x]) :
    (quarterRoundAt M g)[x] = (quarterRoundAt M' g)[x] := by
  simp only [Group.indices, List.forall_mem_cons] at hg
  obtain ⟨ha, hb, hc, hd, -⟩ := hg
  rw [quarterRoundAt_getElem, quarterRoundAt_getElem, ha, hb, hc, hd, hx]

/-- A quarter-round on g reads and writes the same before and after one on a group h that shares no word with g. -/
theorem quarterRoundAt_comm_getElem (M : Vector Word 16) {g h : Group} (disjoint : ∀ y ∈ g.indices, y ∉ h.indices)
    {x : Fin 16} (hx : x ∉ h.indices) :
    (quarterRoundAt (quarterRoundAt M g) h)[x] = (quarterRoundAt (quarterRoundAt M h) g)[x] :=
  (quarterRoundAt_getElem_of_notMem _ hx).trans <|
    quarterRoundAt_congr (fun y hy => (quarterRoundAt_getElem_of_notMem M (disjoint y hy)).symm)
      (quarterRoundAt_getElem_of_notMem M hx).symm

/-- Settles O28: a word lies outside one of the two groups. -/
theorem quarterRoundsOfOnePassCommute : Obligations.QuarterRoundsOfOnePassCommute := by
  intro M x y pass ne
  ext i hi : 1
  by_cases hy : ⟨i, hi⟩ ∈ (group y).indices
  · have hx : ⟨i, hi⟩ ∉ (group x).indices := group_indices_disjoint y x pass.symm ne.symm _ hy
    exact (quarterRoundAt_comm_getElem M (group_indices_disjoint y x pass.symm ne.symm) hx).symm
  · exact quarterRoundAt_comm_getElem M (group_indices_disjoint x y pass ne) hy

/-! ## The block (R64, R189) -/

theorem getElem?_leBytes (w : Word) (b : Fin 4) : (leBytes w)[b.val]? = some (w.extractLsb' (8 * b.val) 8) := by
  fin_cases b <;> rfl

/-- Byte b of word i stands at position 4i + b. -/
theorem getElem?_flatMap_leBytes (l : List Word) (b : Fin 4) : ∀ {i : Nat} (h : i < l.length),
    (l.flatMap leBytes)[4 * i + b.val]? = some (l[i].extractLsb' (8 * b.val) 8) := by
  induction l with
  | nil => intro i h; exact absurd h (Nat.not_lt_zero i)
  | cons w l ih =>
    intro i h
    rw [List.flatMap_cons]
    cases i with
    | zero =>
      rw [List.getElem?_append_left (by rw [leBytes_length]; omega), Nat.mul_zero, Nat.zero_add]
      exact getElem?_leBytes w b
    | succ i =>
      rw [List.getElem?_append_right (by rw [leBytes_length]; omega), leBytes_length,
        show 4 * (i + 1) + b.val - 4 = 4 * i + b.val by omega]
      exact ih (Nat.lt_of_succ_lt_succ h)

theorem getElem?_serialize (v : Vector Word 16) (x : Fin 16) (b : Fin 4) :
    (serialize v)[4 * x.val + b.val]? = some (v[x].extractLsb' (8 * b.val) 8) :=
  getElem?_flatMap_leBytes v.toList b (by simp)

theorem matrixSum_toNat (MW MI : Vector Word 16) (x : Fin 16) :
    (matrixSum MW MI)[x].toNat = (MW[x].toNat + MI[x].toNat) % 2 ^ 32 := by
  simp [matrixSum]

/-! ## Closing the loops -/

/-- The loop of the quarter-rounds is closed: the next one, or the final sums after the last (R187). -/
def State.closeQuarterRounds (b : State) : State :=
  { b with
    QN := if b.QN.toNat < 79 then b.QN + 1 else b.QN
    PHASE := if b.QN.toNat < 79 then b.PHASE else P_ARX_FINAL }

theorem arxQrNext_eq_closeQuarterRounds (s : State) : arxQrNext s = (arxQrBody s).closeQuarterRounds := by
  rw [arxQrNext_eq, State.closeQuarterRounds, show (arxQrBody s).QN = s.QN from rfl]
  split <;> rfl

theorem State.closeQuarterRounds_of_more (more : s.QN.toNat < 79) :
    s.closeQuarterRounds.QN.toNat = s.QN.toNat + 1 ∧ s.closeQuarterRounds.PHASE = s.PHASE := by
  rw [State.closeQuarterRounds, if_pos more, if_pos more]
  refine ⟨?_, rfl⟩
  rw [BitVec.toNat_add]
  exact Nat.mod_eq_of_lt (show s.QN.toNat + 1 < 2 ^ 7 by omega)

theorem State.closeQuarterRounds_of_last (last : 79 ≤ s.QN.toNat) :
    s.closeQuarterRounds.QN = s.QN ∧ s.closeQuarterRounds.PHASE = P_ARX_FINAL := by
  rw [State.closeQuarterRounds, if_neg last.not_gt, if_neg last.not_gt]
  exact ⟨rfl, rfl⟩

/-- The last loop of a run, over `IDX` below PLEN, is closed: the next iteration, or `finish` (R190, R131). -/
def State.closeOrFinish (b : State) : State :=
  { b with
    IDX := if b.IDX.toNat + 1 < b.PLEN.toNat then b.IDX + 1 else b.IDX
    PHASE := if b.IDX.toNat + 1 < b.PLEN.toNat then b.PHASE else P_DONE
    STATUS := if b.IDX.toNat + 1 < b.PLEN.toNat then b.STATUS else .done }

theorem arxXorNext_eq_closeOrFinish (s : State) (p z : Byte) :
    arxXorNext s p z = (arxXorBody s p z).closeOrFinish := by
  rw [arxXorNext_eq, State.closeOrFinish, show (arxXorBody s p z).IDX = s.IDX from rfl,
    show (arxXorBody s p z).PLEN = s.PLEN from rfl]
  split <;> rfl

theorem State.closeOrFinish_of_more (more : s.IDX.toNat + 1 < s.PLEN.toNat) :
    s.closeOrFinish.IDX.toNat = s.IDX.toNat + 1 ∧ s.closeOrFinish.PHASE = s.PHASE ∧
      s.closeOrFinish.STATUS = s.STATUS := by
  rw [State.closeOrFinish, if_pos more, if_pos more, if_pos more]
  exact ⟨Word.succ_toNat (more.trans s.PLEN.isLt), rfl, rfl⟩

theorem State.closeOrFinish_of_last (last : s.IDX.toNat + 1 = s.PLEN.toNat) :
    s.closeOrFinish.IDX = s.IDX ∧ s.closeOrFinish.PHASE = P_DONE ∧ s.closeOrFinish.STATUS = .done := by
  rw [State.closeOrFinish, if_neg last.not_lt, if_neg last.not_lt, if_neg last.not_lt]
  exact ⟨rfl, rfl, rfl⟩

/-! ## The frame -/

/-- What the four micro-operations before the output leave (R183, R186, R187, R189). -/
structure ArxFrame (s t : State) : Prop where
  operands : SameOperands s t
  spc : SameSpc s t
  pac : SamePac s t
  output : SameOutput s t
  run : SameRun s t

/-- It is left by every write to ARX working state, counters, phase and trace. -/
theorem ArxFrame.of_writes {MI MW : Vector Word 16} {BLOCK : Memory Byte} {IDX TLEN : Word} {QN : BitVec 7}
    {PHASE : BitVec 8} {TRACE : Memory TraceRecord} {draws : Nat} :
    ArxFrame s { s with MI, MW, BLOCK, IDX, TLEN, QN, PHASE, TRACE, draws } where
  operands := ⟨rfl, rfl, rfl, rfl, rfl, rfl, rfl⟩
  spc := ⟨rfl, rfl, rfl⟩
  pac := ⟨rfl, rfl, rfl⟩
  output := ⟨rfl, rfl, rfl, rfl, rfl⟩
  run := ⟨rfl, rfl, rfl, rfl, rfl, rfl⟩

/-! ## The micro-operations -/

/-- The state after `U_ARX_INIT` with these key and nonce bytes. -/
def arxInitNext (s : State) (key nonce : List Byte) : State :=
  { { s with MI := initialMatrix key nonce }.emit (.arxInit (initialMatrix key nonce)) with PHASE := P_ARX_COPY }

/-- Settles O23: key and nonce are read as far as they lie in the padded strings, whose words fill the matrix. -/
theorem arxInitBuildsTheMatrix : Obligations.ArxInitBuildsTheMatrix := by
  intro s K M hK hM
  obtain ⟨key, keyHead, key_padded⟩ := State.exists_readBytes_padded (b := .KEY) hK
  obtain ⟨nonce, nonceHead, nonce_padded⟩ := State.exists_readBytes_padded (b := .NONCE) hM
  have e : exec .uArxInit s = .next (arxInitNext s key nonce) :=
    execUArxInit_eq_next.mpr ⟨key, nonce, keyHead, nonceHead, rfl⟩
  have key_word (m : Nat) (h : m < 8) :=
    (congrArg BitVec.toNat (initialMatrix_key key nonce h)).trans (paddedWord_toNat key_padded (by omega))
  have nonce_word (m : Nat) (h : m < 3) :=
    (congrArg BitVec.toNat (initialMatrix_nonce key nonce h)).trans (paddedWord_toNat nonce_padded (by omega))
  have ⟨operands, spc, pac, output, run⟩ : ArxFrame s (arxInitNext s key nonce) := .of_writes
  exact ⟨_, e, rfl, rfl, rfl, rfl, key_word, rfl, nonce_word, emitted_of_write _ _ rfl rfl, rfl, rfl, rfl, rfl,
    rfl, operands, spc, pac, output, run⟩

/-- Settles O24. -/
theorem arxCopyCopiesTheMatrix : Obligations.ArxCopyCopiesTheMatrix := fun _ =>
  have ⟨operands, spc, pac, output, run⟩ := ArxFrame.of_writes
  ⟨_, execUArxCopy_eq_next.mpr rfl, rfl, rfl, rfl, rfl, rfl, rfl, operands, spc, pac, output, ⟨rfl, rfl⟩, run⟩

/-- Settles O25: the four indices of the group are distinct, so each of the four writes stands. -/
theorem arxQuarterRoundOnItsGroup : Obligations.ArxQuarterRoundOnItsGroup := by
  intro s a b c d mem
  obtain ⟨rfl, rfl, rfl, rfl⟩ := Group.mk.inj (group_of_mem_groupTable mem)
  have e : exec .uArxQr s = .next (arxQrBody s).closeQuarterRounds :=
    execUArxQr_eq_next.mpr (arxQrNext_eq_closeQuarterRounds s).symm
  have ⟨ha, hb, hc, hd⟩ := quarterRoundAt_getElem_group s.MW (group_indices_nodup (slotOf s.QN.toNat))
  have ⟨operands, spc, pac, output, run⟩ : ArxFrame s (arxQrBody s).closeQuarterRounds := .of_writes
  exact ⟨_, _, e, quarterRoundSteps_qrSteps _ _ _ _, ha, hb, hc, hd,
    fun _ xa xb xc xd => quarterRoundAt_getElem_of_notMem s.MW (Group.notMem_indices_iff.mpr ⟨xa, xb, xc, xd⟩),
    emitted_of_write _ _ rfl rfl, State.closeQuarterRounds_of_more (s := arxQrBody s),
    State.closeQuarterRounds_of_last (s := arxQrBody s), rfl, rfl, rfl, operands, spc, pac, output, run⟩

/-- Settles O26. -/
theorem arxFinalSerializesTheSums : Obligations.ArxFinalSerializesTheSums := fun s =>
  have ⟨operands, spc, pac, output, run⟩ : ArxFrame s (arxFinalNext s) := .of_writes
  ⟨_, matrixSum s.MW s.MI, _, execUArxFinal_eq_next.mpr rfl, matrixSum_toNat s.MW s.MI, serialize_length _,
    getElem?_serialize _, storedAll_writeAll s.BLOCK _, emitted_of_write _ _ rfl rfl, rfl, rfl, rfl, rfl, rfl, operands,
    spc, pac, output, run⟩

/-- Settles O27: the body for one byte, then the loop over PLEN. -/
theorem arxXorEncryptsOneByte : Obligations.ArxXorEncryptsOneByte := by
  intro s p z lt fits hp hz
  have e : exec .uArxXor s = .next (arxXorBody s p z).closeOrFinish :=
    execUArxXor_eq_next.mpr ⟨p, z, hp, hz, lt.trans_le fits, (arxXorNext_eq_closeOrFinish s p z).symm⟩
  have count : (s.IDX + 1).toNat = s.IDX.toNat + 1 := Word.succ_toNat (by have := s.PLEN.isLt; omega)
  exact ⟨_, e, stored_write s.KS _ _, stored_write s.OUT _ _, count, count, emitted_of_write _ _ rfl rfl,
    State.closeOrFinish_of_more (s := arxXorBody s p z), State.closeOrFinish_of_last (s := arxXorBody s p z), rfl, rfl,
    rfl, rfl, rfl, rfl, rfl, ⟨rfl, rfl, rfl, rfl, rfl, rfl, rfl⟩, ⟨rfl, rfl, rfl⟩, ⟨rfl, rfl, rfl⟩, ⟨rfl, rfl, rfl⟩⟩

end Sys2Proof.Machine
end

section
/-! PROOFS. The PAC engine: what its two micro-operations write and what they leave (O30, O31), and the run whose key
holds no letter (O43). -/

namespace Sys2Proof.Machine

variable {s : State}

/-! ## `U_PAC_CLEAN` -/

/-- Settles O30: the cleaned key is no longer than the key, so it fits `CKEY`. -/
theorem pacCleanKeepsTheLettersOfTheKey : Obligations.PacCleanKeepsTheLettersOfTheKey := by
  intro s key klen key_le hkey
  refine ⟨fun letter => ?_, fun pt noLetter plen text_le hpt => ?_⟩
  · have fits : (cleanKey key).length ≤ Config.KEY_MAX := (cleanKey_length_le key).trans (klen ▸ key_le)
    exact ⟨_, execUPacClean_eq_next.mpr ⟨key, ⟨klen.symm, hkey⟩, .inl ⟨letter, fits, rfl⟩⟩,
      toNat_ofNat_length fits Config.KEY_MAX_lt, storedAll_writeAll s.CKEY _, emitted_of_write _ _ rfl rfl, rfl, rfl,
      rfl, rfl, ⟨rfl, rfl, rfl, rfl, rfl, rfl, rfl⟩, ⟨rfl, rfl, rfl⟩, ⟨rfl, rfl, rfl⟩, ⟨rfl, rfl, rfl, rfl, rfl⟩,
      ⟨rfl, rfl, rfl, rfl, rfl, rfl⟩⟩
  · exact ⟨_, execUPacClean_eq_next.mpr ⟨key, ⟨klen.symm, hkey⟩,
        .inr ⟨noLetter, pt, ⟨plen.symm, hpt⟩, .inr (plen ▸ text_le), rfl⟩⟩,
      rfl, rfl, emitted_of_write _ _ rfl rfl, storedAll_writeAll s.OUT pt, rfl, rfl, rfl, rfl, rfl, rfl, rfl, rfl, rfl,
      rfl, rfl, rfl, rfl, rfl, ⟨rfl, rfl, rfl, rfl, rfl, rfl, rfl⟩, ⟨rfl, rfl, rfl⟩, ⟨rfl, rfl, rfl⟩⟩

/-! ## The run without a key letter (R231) -/

/-- Settles O43: `U_VALIDATE` passes the request, and `U_PAC_CLEAN` ends the run with the fallback. -/
theorem runPacWithoutKeyLetterFallsBack : Obligations.RunPacWithoutKeyLetterFallsBack := by
  intro s pt key mode preserve hn hu hl text key_ne noLetter text_le key_le
  have op := cmdOp_pacWord mode preserve
  have not_op {x : BitVec 4} {p : Prop} (ne : 3 ≠ x) (h : cmdOp (pacWord mode preserve) = x) : p :=
    absurd (op.symm.trans h) ne
  have q : Loaded (s.started (pacWord mode preserve)) pt key := hl.of_sameOperands ⟨rfl, rfl, rfl, rfl, rfl, rfl, rfl⟩
  have validated : InRun _ 1 { s.started (pacWord mode preserve) with PHASE := P_PAC_CLEAN } :=
    .validated hu (legalCommand_iff.mpr ⟨.runPac mode preserve, rfl⟩)
      ⟨hl.PLEN ▸ text_le, hl.KLEN ▸ key_le, not_op (by decide), not_op (by decide), not_op (by decide)⟩
      (q.unwritten_eq_none (not_op (by decide)))
      (State.checkOperands_of_pac (q.PLEN_ne_zero text) (q.KLEN_ne_zero key_ne) op)
  have q := q.of_sameOperands validated.operands
  obtain ⟨t, e, -, -, emitted, output, olen, err, -, status, -, cur, -, -, verify, kslen, -⟩ :=
    (pacCleanKeepsTheLettersOfTheKey _ key q.KLEN (q.KLEN.trans_le key_le) q.KEY).2 pt noLetter q.PLEN
      (q.PLEN.trans_le text_le) q.PT
  obtain ⟨ends, operands, -⟩ := validated.last rfl (i := .uPacClean) rfl e (by rw [status]; decide)
  have tlen : t.TLEN.toNat = 1 := emitted.count (show 0 + 1 < 2 ^ 32 by decide)
  exact ⟨_, t, hStart_of_rest hn _, ends, status, err, verify, output.values, olen, kslen, BitVec.eq_of_toNat_eq tlen,
    emitted.record, cur, { operands with }⟩

/-! ## `U_PAC_CHAR` -/

/-- The loop over the text is closed as that of `U_ARX_XOR` is (R223, R131). -/
theorem pacLoop_eq_closeOrFinish {b : State} (idx : s.IDX = b.IDX) (plen : s.PLEN = b.PLEN) :
    pacLoop s b = b.closeOrFinish := by
  rw [pacLoop, State.closeOrFinish, idx, plen]
  split <;> rfl

/-- Every write to cursor, output and trace, then the end of the loop, leaves what `U_PAC_CHAR` leaves. -/
theorem PacCharLoops.of_writes {OLEN CUR TLEN : Word} {OUT : Memory Byte} {TRACE : Memory TraceRecord} {draws : Nat} :
    PacCharLoops s { s with OLEN, CUR, TLEN, OUT, TRACE, draws }.closeOrFinish where
  more := State.closeOrFinish_of_more (s := { s with OLEN, CUR, TLEN, OUT, TRACE, draws })
  last := State.closeOrFinish_of_last (s := { s with OLEN, CUR, TLEN, OUT, TRACE, draws })
  CMD := rfl
  ERR := rfl
  VERIFY_OK := rfl
  QN := rfl
  KSLEN := rfl
  KS := rfl
  REC := rfl
  CKEY := rfl
  CLEN := rfl
  inputs := rfl
  returned := rfl
  operands := ⟨rfl, rfl, rfl, rfl, rfl, rfl, rfl⟩
  spc := ⟨rfl, rfl, rfl⟩
  arx := ⟨rfl, rfl, rfl⟩

theorem letterPos_lt {u : Byte} (h : isUpper u = true) : letterPos u < 26 := by
  rw [isUpper, decide_eq_true_iff] at h
  rw [letterPos]
  omega

theorem outputPos_lt (mode : PacMode) (p kpos : Nat) : outputPos mode p kpos < 26 := by
  cases mode <;> exact Nat.mod_lt _ (by decide)

/-- The output position, with the difference of R224 taken as an integer. -/
theorem outputPos_toInt (b : Bool) (p : Nat) {kpos : Nat} (h : kpos < 26) : (outputPos (pacModeOfBit b) p kpos : Int) =
    (if b = false then (p : Int) + kpos else p - kpos + 26) % 26 := by
  cases b with
  | false => rfl
  | true =>
    show ((p + 26 - kpos) % 26 : Nat) = ((p : Int) - kpos + 26) % 26
    omega

theorem letterAt_toNat {q : Nat} (h : q < 26) (lower : Bool) :
    (letterAt q lower).toNat = 0x41 + q + if lower = true then 0x20 else 0 := by
  rw [letterAt, BitVec.toNat_ofNat]
  exact Nat.mod_eq_of_lt (by split <;> omega)

/-- Settles O31: a letter, a kept and a dropped character; each closes the loop over the text. -/
theorem pacCharShiftsLettersOnly : Obligations.PacCharShiftsLettersOnly := by
  intro s c lt fits olen_le cur_le hc
  have hplen := s.PLEN.isLt
  have room : s.OLEN.toNat < Config.PT_MAX := by omega
  have olen : (s.OLEN + 1).toNat = s.OLEN.toNat + 1 := Word.succ_toNat (by omega)
  refine ⟨fun kl hl clen hkl hupper => ?_, fun hl keep => ?_, fun hl drop => ?_⟩
  · have clen : s.CLEN.toNat ≠ 0 := fun e => clen (BitVec.eq_of_toNat_eq e)
    have e : exec .uPacChar s = .next (pacLetterNext s c kl).closeOrFinish := execUPacChar_eq_next.mpr
      ⟨c, hc, .inl ⟨hl, room, clen, kl, hkl, hupper, (pacLoop_eq_closeOrFinish rfl rfl).symm⟩⟩
    exact ⟨_, _, _, _, _, e, rfl, rfl, outputPos_toInt _ _ (letterPos_lt hupper), letterAt_toNat (outputPos_lt _ _ _) _,
      stored_write s.OUT _ _, olen, Counter.succ_toNat (by omega), emitted_of_write _ _ rfl rfl, .of_writes⟩
  · have e : exec .uPacChar s = .next ((pacAppended s c).emit (.pacChar s.IDX.toNat c .kept)).closeOrFinish :=
      execUPacChar_eq_next.mpr ⟨c, hc, .inr (.inl ⟨hl, keep, room, (pacLoop_eq_closeOrFinish rfl rfl).symm⟩)⟩
    exact ⟨_, e, stored_write s.OUT _ _, olen, rfl, emitted_of_write _ _ rfl rfl, .of_writes⟩
  · have e : exec .uPacChar s = .next (s.emit (.pacChar s.IDX.toNat c .dropped)).closeOrFinish :=
      execUPacChar_eq_next.mpr ⟨c, hc, .inr (.inr ⟨hl, drop, (pacLoop_eq_closeOrFinish rfl rfl).symm⟩)⟩
    exact ⟨_, e, rfl, rfl, rfl, emitted_of_write _ _ rfl rfl, .of_writes⟩

end Sys2Proof.Machine
end

section
/-! PROOFS. The function of RUN_PAC, letter by letter: decryption undoes encryption (O50), and the output has the shape
of the text (O51). -/

namespace Sys2Proof.Machine

variable {mode : PacMode} {ckey : List Byte} {cur : Nat} {c kl : Byte} {cs : List Byte}

/-! ## One letter -/

/-- The letter c shifted by the key letter kl, in its own case (R223 to R225). -/
def shiftLetter (mode : PacMode) (kl c : Byte) : Byte :=
  letterAt (outputPos mode (letterPos (upper c)) (letterPos kl)) (isLower c)

/-- A letter is the one at its position, in its case. -/
theorem letterAt_letterPos (h : isLetter c = true) : letterAt (letterPos (upper c)) (isLower c) = c := by
  revert c; decide +kernel

/-! The letter at a position is a letter, of the case asked for, at that position (R225). -/

theorem isLetter_letterAt : ∀ q < 26, ∀ lower, isLetter (letterAt q lower) = true := by decide

theorem isLower_letterAt : ∀ q < 26, ∀ lower, isLower (letterAt q lower) = lower := by decide

theorem letterPos_letterAt : ∀ q < 26, ∀ lower, letterPos (upper (letterAt q lower)) = q := by decide

@[simp] theorem isLetter_shiftLetter : isLetter (shiftLetter mode kl c) = true :=
  isLetter_letterAt _ (outputPos_lt mode _ _) _

@[simp] theorem isLower_shiftLetter : isLower (shiftLetter mode kl c) = isLower c :=
  isLower_letterAt _ (outputPos_lt mode _ _) _

@[simp] theorem letterPos_shiftLetter : letterPos (upper (shiftLetter mode kl c)) =
    outputPos mode (letterPos (upper c)) (letterPos kl) :=
  letterPos_letterAt _ (outputPos_lt mode _ _) _

/-- Subtracting the key position modulo 26 undoes adding it (R224). -/
theorem outputPos_decrypt_encrypt {p kpos : Nat} (hp : p < 26) (hk : kpos < 26) :
    outputPos .decrypt (outputPos .encrypt p kpos) kpos = p := by
  show ((p + kpos) % 26 + 26 - kpos) % 26 = p
  omega

theorem shiftLetter_decrypt_encrypt (hc : isLetter c = true) (hk : isUpper kl = true) :
    shiftLetter .decrypt kl (shiftLetter .encrypt kl c) = c := by
  rw [shiftLetter, letterPos_shiftLetter, isLower_shiftLetter,
    outputPos_decrypt_encrypt (letterPos_lt (isUpper_upper hc)) (letterPos_lt hk), letterAt_letterPos hc]

/-! ## One character of the text -/

/-- The key letter at the cursor (R76). -/
def keyLetterAt (ckey : List Byte) (cur : Nat) : Byte := ckey.getD (cur % ckey.length) 0

theorem isUpper_keyLetterAt {key : List Byte} (letter : cleanKey key ≠ []) (cur : Nat) :
    isUpper (keyLetterAt (cleanKey key) cur) = true := by
  have lt := Nat.mod_lt cur (List.length_pos_of_ne_nil letter)
  rw [keyLetterAt, List.getD_eq_getElem _ _ lt]
  exact isUpper_of_mem_cleanKey (List.getElem_mem lt)

theorem pacFrom_cons_letter {preserve : Bool} (h : isLetter c = true) : pacFrom mode preserve ckey cur (c :: cs) =
    shiftLetter mode (keyLetterAt ckey cur) c :: pacFrom mode preserve ckey (cur + 1) cs := by
  rw [pacFrom, if_pos h, shiftLetter, keyLetterAt]

theorem pacFrom_cons_kept (h : isLetter c = false) : pacFrom mode true ckey cur (c :: cs) =
    c :: pacFrom mode true ckey cur cs := by
  rw [pacFrom, if_neg (by simp [h]), if_pos rfl]

theorem pacFrom_cons_dropped (h : isLetter c = false) : pacFrom mode false ckey cur (c :: cs) =
    pacFrom mode false ckey cur cs := by
  rw [pacFrom, if_neg (by simp [h]), if_neg (by decide)]

/-! ## The whole text -/

/-- With the non-letters kept, the cursor meets the same letters on the way back. -/
theorem pacFrom_decrypt_encrypt (key_upper : ∀ cur, isUpper (keyLetterAt ckey cur) = true) (l : List Byte) : ∀ cur,
    pacFrom .decrypt true ckey cur (pacFrom .encrypt true ckey cur l) = l := by
  induction l with
  | nil => intro cur; rfl
  | cons c l ih =>
    intro cur
    cases hc : isLetter c with
    | true =>
      rw [pacFrom_cons_letter hc, pacFrom_cons_letter isLetter_shiftLetter, ih,
        shiftLetter_decrypt_encrypt hc (key_upper cur)]
    | false => rw [pacFrom_cons_kept hc, pacFrom_cons_kept hc, ih]

/-- Dropping the non-letters is keeping the letters of the output that has them. -/
theorem pacFrom_drop_eq_filter (mode : PacMode) (ckey l : List Byte) : ∀ cur,
    pacFrom mode false ckey cur l = (pacFrom mode true ckey cur l).filter isLetter := by
  induction l with
  | nil => intro cur; rfl
  | cons c l ih =>
    intro cur
    cases hc : isLetter c with
    | true =>
      rw [pacFrom_cons_letter hc, pacFrom_cons_letter hc, ih,
        List.filter_cons_of_pos isLetter_shiftLetter]
    | false =>
      rw [pacFrom_cons_dropped hc, pacFrom_cons_kept hc, ih, List.filter_cons_of_neg (by simp [hc])]

/-- Dropping the non-letters on the way is dropping them before. -/
theorem pacFrom_drop_eq_of_filter (mode : PacMode) (ckey l : List Byte) : ∀ cur,
    pacFrom mode false ckey cur l = pacFrom mode true ckey cur (l.filter isLetter) := by
  induction l with
  | nil => intro cur; rfl
  | cons c l ih =>
    intro cur
    cases hc : isLetter c with
    | true =>
      rw [List.filter_cons_of_pos hc, pacFrom_cons_letter hc, pacFrom_cons_letter hc, ih]
    | false => rw [List.filter_cons_of_neg (by simp [hc]), pacFrom_cons_dropped hc, ih]

theorem pacOutput_decrypt_encrypt {key : List Byte} (letter : cleanKey key ≠ []) (pt : List Byte) :
    pacOutput .decrypt true (pacOutput .encrypt true pt key) key = pt :=
  pacFrom_decrypt_encrypt (isUpper_keyLetterAt letter) pt 0

theorem pacOutput_drop_eq_filter (mode : PacMode) (pt key : List Byte) :
    pacOutput mode false pt key = (pacOutput mode true pt key).filter isLetter :=
  pacFrom_drop_eq_filter mode (cleanKey key) pt 0

theorem pacOutput_drop_eq_of_filter (mode : PacMode) (pt key : List Byte) :
    pacOutput mode false pt key = pacOutput mode true (pt.filter isLetter) key :=
  pacFrom_drop_eq_of_filter mode (cleanKey key) pt 0

/-- Settles O50: the text without its non-letters is a text too, and it comes back as any text does. -/
theorem pacRoundTrip : Obligations.PacRoundTrip := by
  intro pt key letter
  have letters : pacOutput .decrypt true (pacOutput .encrypt false pt key) key = pt.filter isLetter := by
    rw [pacOutput_drop_eq_of_filter, pacOutput_decrypt_encrypt letter]
  refine ⟨pacOutput_decrypt_encrypt letter pt, fun preserve => ?_, fun mode => pacOutput_drop_eq_filter mode pt key⟩
  cases preserve with
  | true => exact letters
  | false =>
    rw [pacOutput_drop_eq_filter, letters]
    exact List.filter_eq_self.mpr fun _ h => (List.mem_filter.mp h).2

/-- The output o for the character c: a letter of the same case for a letter, and c itself otherwise (R225, R226). -/
structure SameShape (c o : Byte) : Prop where
  letter : isLetter o = isLetter c
  lower : isLower o = isLower c
  other : isLetter c = false → o = c

theorem pacFrom_sameShape (mode : PacMode) (ckey l : List Byte) : ∀ cur,
    List.Forall₂ SameShape l (pacFrom mode true ckey cur l) := by
  induction l with
  | nil => exact fun _ => .nil
  | cons c l ih =>
    intro cur
    cases hc : isLetter c with
    | true =>
      rw [pacFrom_cons_letter hc]
      exact .cons ⟨isLetter_shiftLetter.trans hc.symm, isLower_shiftLetter, by simp [hc]⟩ (ih _)
    | false =>
      rw [pacFrom_cons_kept hc]
      exact .cons ⟨rfl, rfl, fun _ => rfl⟩ (ih _)

/-- Settles O51: with the flag, character by character; without it, on the text without its non-letters. -/
theorem pacOutputHasTheShapeOfTheText : Obligations.PacOutputHasTheShapeOfTheText := by
  intro mode pt key _
  have shape (l : List Byte) : List.Forall₂ SameShape l (pacOutput mode true l key) :=
    pacFrom_sameShape mode (cleanKey key) l 0
  refine ⟨(shape pt).length_eq.symm, fun k c hc => ?_, ?_, fun o ho => ?_⟩
  · obtain ⟨hk, rfl⟩ := List.getElem?_eq_some_iff.mp hc
    have hk' : k < (pacOutput mode true pt key).length := (shape pt).length_eq ▸ hk
    obtain ⟨hletter, hlower, hother⟩ := (shape pt).get hk hk'
    exact ⟨_, List.getElem?_eq_getElem hk', hletter, hlower, hother⟩
  · rw [pacOutput_drop_eq_of_filter]
    exact (shape _).length_eq.symm
  · rw [pacOutput_drop_eq_filter] at ho
    exact (List.mem_filter.mp ho).2

end Sys2Proof.Machine
end

section
/-! PROOFS. A run that `U_VALIDATE` ends with an error, from the host's write of `CMD` to its end (O44). -/

namespace Sys2Proof.Machine

variable {s : State} {w : Word}

/-- The bounds speak of the request and of the word in `CMD`, which H_START leaves as the host wrote them, whatever
inputs follow (R122). -/
theorem AdmittedRequest.started (h : AdmittedRequest { s with CMD := w }) (rest : List Input) :
    AdmittedRequest (State.started { s with inputs := rest } w) :=
  ⟨h.plaintext, h.key, h.stateSize, h.arxKey, h.arxNonce⟩

theorem WrittenRequest.started (h : WrittenRequest { s with CMD := w }) (rest : List Input) :
    WrittenRequest (State.started { s with inputs := rest } w) :=
  ⟨h.text, h.key, h.nonce⟩

theorem execUValidate_of_illegal (illegal : legalCommand s.CMD = false) :
    execUValidate s = .next (s.raise .illegalCommand) :=
  execUValidate_eq_next.mpr (.inl ⟨illegal, rfl⟩)

/-- The host's write of `CMD` at rest is one step, H_START (R120, R122). -/
theorem step_start {rest : List Input} (hn : s.STATUS ≠ .busy) (hin : s.inputs = .host (.start w) :: rest) :
    step s = .next (State.started { s with inputs := rest } w) :=
  (stepRunsTheCommandTheHostWrites s w rest hn hin).2

/-- A run that `U_VALIDATE` ends with an error ends after that one step (R256). -/
theorem steps_one_started {k : ErrKind} (hu : s.undisturbed = true)
    (e : execUValidate (s.started w) = .next ((s.started w).raise k)) :
    steps 1 (s.started w) = .next ((s.started w).raise k) :=
  have ⟨⟨ends, _, _⟩, _, _⟩ := (InRun.started hu w).last (i := .uValidate) rfl rfl e nofun
  ends

/-- Settles O44: whichever check fails, `U_VALIDATE` raises its kind in the state that H_START leaves. -/
theorem validationErrorsArePrecise : Obligations.ValidationErrorsArePrecise := by
  intro s w rest k hn hin hu failed
  let u : State := { s with inputs := rest }
  have checked {t : State} (legal : legalCommand w = true) (admitted : AdmittedRequest { s with CMD := w })
      (written : WrittenRequest { s with CMD := w }) (h : (u.started w).checkOperands = t) :
      execUValidate (u.started w) = .next t :=
    h ▸ execUValidate_of_written legal (admitted.started rest) (written.started rest)
  have raises : execUValidate (u.started w) = .next ((u.started w).raise k) := by
    obtain ⟨illegal, rfl⟩ | ⟨legal, admitted, written, empty, rfl⟩ |
      ⟨legal, admitted, written, text, key, op, noSize, rfl⟩ := failed
    · exact execUValidate_of_illegal illegal
    · exact checked legal admitted written (State.checkOperands_of_empty empty)
    · exact checked legal admitted written (State.checkOperands_of_noStateSize text key op noSize)
  calc steps 2 s
      = Res.andThen (step s) (steps 1) := rfl
    _ = steps 1 (u.started w) := by rw [step_start hn hin, Res.andThen_next]
    _ = .next ((u.started w).raise k) := steps_one_started hu raises

end Sys2Proof.Machine
end

section
/-! PROOFS. A request that covers an element without a value (R283, O54). -/

namespace Sys2Proof.Machine

variable {s : State}

/-- The check of `U_VALIDATE` on the elements that the length registers cover finds none without a value exactly when
the request is written (R283). -/
theorem State.unwritten_eq_none_iff_writtenRequest : s.unwritten = none ↔ WrittenRequest s :=
  State.unwritten_eq_none.trans ⟨fun ⟨text, key, nonce⟩ => ⟨text, key, nonce⟩, fun h => ⟨h.text, h.key, h.nonce⟩⟩

/-- Settles O54: the buffer that `unwritten` names is the one refused, and it has an element without a value. -/
theorem validateRefusesAnUnwrittenRequest : Obligations.ValidateRefusesAnUnwrittenRequest := by
  intro s legal admitted notWritten
  obtain ⟨b, unwritten⟩ := Option.ne_none_iff_exists'.mp (mt State.unwritten_eq_none_iff_writtenRequest.mp notWritten)
  obtain ⟨k, noValue, covered⟩ := State.unwritten_eq_some unwritten
  have refused : exec .uValidate s = .refused (.requestUnwritten b) :=
    execUValidate_eq_refused.mpr ⟨legal, .inr ⟨State.excess_eq_none.mpr admitted, b, unwritten, rfl⟩⟩
  exact ⟨b, k, refused, noValue, covered⟩

end Sys2Proof.Machine
end
